-- ==== Sys2Proof/Word.lean ====
section
/-! DEFINITION. The word types of the machine: a byte of memory, a 64-bit register or address,
and the two widths that displacements and register halves have (spec/00_scope.md R6). -/

namespace Sys2Proof

/-- One byte of memory or of an instruction (20_memory.md R61). -/
abbrev Byte := BitVec 8

/-- The value of a 64-bit register, of `RIP`, or of a linear or physical address. -/
abbrev Word64 := BitVec 64

/-- Half a general register, a 32-bit displacement, or a page-fault error code. -/
abbrev Word32 := BitVec 32

end Sys2Proof
end

