-- ==== Sys2Proof/Config.lean ====
section
/-! DEFINITION. The free values: what the spec leaves open while the machine goes on. Each is a
constant without a body, so no proof can know its value. Every one is applied to the model's own
counter `State.drawIndex`, which each completed rotate advances, so each execution has its own. -/

namespace Sys2Proof

/-- `draw()` of 00_scope.md R7: the value of OF after a rotate whose masked count is greater than 1
("the OF flag is undefined", 40_rotate_common.md R169; assumption log 6). -/
opaque Config.drawOf : Nat → Bool

/-- Bits 63:32 of a general register after a 32-bit write outside 64-bit mode: "the model may hold
them at any value" (10_state.md R23; assumption log 7). -/
opaque Config.drawHigh : Nat → Word32

/-- Whether `#AC` is reported rather than `#PF` when both conditions hold: "order open"
(60_exceptions.md R310; assumption log 8). The choice may depend on the execution and on the linear
address of the operand. -/
opaque Config.acBeforePf : Nat → Word64 → Bool

end Sys2Proof
end

