-- ==== Sys2Proof/Syntax.lean ====
section
/-! DEFINITION. The instructions: the 60 rows of spec/opcode_table.json, one constructor a row, with
every operand field the encoding has (spec/30_encoding.md R100 to R115), so that nothing of the
bytes is lost. Also the names the decoder and the state share: modes, segment registers, sizes, and
why a byte string may be refused. -/

namespace Sys2Proof

/-- The five operating modes (00_scope.md R5, 10_state.md R33): `Real`, `V86`, `Protected` (here
`prot`), `Compat`, `Long64`. -/
inductive Mode where
  | real | v86 | prot | compat | long64
  deriving DecidableEq, Repr

/-- The six segment registers, in encoding order (10_state.md R32). -/
inductive SegReg where
  | es | cs | ss | ds | fs | gs
  deriving DecidableEq, Repr

/-- A legacy prefix byte a rotate may carry (30_encoding.md R101). -/
inductive Legacy where
  /-- `F0`, LOCK, group 1. -/
  | lock
  /-- A segment override, group 2: `26` ES, `2E` CS, `36` SS, `3E` DS, `64` FS, `65` GS. -/
  | seg (r : SegReg)
  /-- `66`, operand-size override, group 3. -/
  | opsize
  /-- `67`, address-size override, group 4. -/
  | addrsize
  deriving DecidableEq, Repr

/-- The R, X and B bits of a REX byte (30_encoding.md R103). -/
structure Rxb where
  r : Bool
  x : Bool
  b : Bool
  deriving DecidableEq, Repr

/-- A whole REX byte (30_encoding.md R103): its W bit and its R, X, B bits. -/
structure Rex where
  w : Bool
  rxb : Rxb
  deriving DecidableEq, Repr

/-- The displacement of a 16-bit address (30_encoding.md R112, R113): `mod` 0, 1, 2. -/
inductive Disp16 where
  | none
  | d8 (d : Byte)
  | d16 (d : BitVec 16)
  deriving DecidableEq, Repr

/-- The displacement of a 32- or 64-bit address (30_encoding.md R110, R113): `mod` 0, 1, 2. -/
inductive Disp32 where
  | none
  | d8 (d : Byte)
  | d32 (d : Word32)
  deriving DecidableEq, Repr

/-- The register part of a 16-bit address, `rm` 0 to 7 (30_encoding.md R112). -/
inductive Base16 where
  | bxSi | bxDi | bpSi | bpDi | si | di | bp | bx
  deriving DecidableEq, Repr

/-- Operand 1, the `r/m` operand, as ModRM, SIB and displacement give it (30_encoding.md R109 to
R113). Register numbers are the three bits of the encoding; REX extends them (R103). -/
inductive Rm where
  /-- `mod = 3`: the register `rm` (R109). -/
  | reg (rm : BitVec 3)
  /-- Address size 16: registers plus displacement (R112). -/
  | mem16 (base : Base16) (disp : Disp16)
  /-- Address size 16, `mod = 0`, `rm = 6`: a 16-bit displacement alone (R112). -/
  | abs16 (disp : BitVec 16)
  /-- Address size 32 or 64: one base register plus displacement (R110). -/
  | mem (base : BitVec 3) (disp : Disp32)
  /-- Address size 32 or 64, `mod = 0`, `rm = 5`: a 32-bit displacement, relative to `RIP_next` in
  64-bit mode (R110). -/
  | abs32 (disp : Word32)
  /-- A SIB byte with a base register, plus displacement (R111). -/
  | sib (scale : BitVec 2) (index base : BitVec 3) (disp : Disp32)
  /-- A SIB byte with `mod = 0` and `base = 5`: no base register, a 32-bit displacement (R111). -/
  | sibAbs (scale : BitVec 2) (index : BitVec 3) (disp : Word32)
  deriving DecidableEq, Repr

/-- Operand size in bits: 8, 16, 32, 64 (30_encoding.md R107). -/
inductive OpSize where
  | b8 | b16 | b32 | b64
  deriving DecidableEq, Repr

/-- `n` of the spec's rules: the operand size in bits. -/
abbrev OpSize.bits : OpSize → Nat
  | .b8 => 8
  | .b16 => 16
  | .b32 => 32
  | .b64 => 64

/-- `k` of the spec's rules: the operand size in bytes (20_memory.md R62). -/
abbrev OpSize.bytes : OpSize → Nat
  | .b8 => 1
  | .b16 => 2
  | .b32 => 4
  | .b64 => 8

/-- Address size in bits: 16, 32, 64 (30_encoding.md R108). -/
inductive AddrSize where
  | a16 | a32 | a64
  deriving DecidableEq, Repr

/-- `A` of the spec's rules: the address size in bits. -/
abbrev AddrSize.bits : AddrSize → Nat
  | .a16 => 16
  | .a32 => 32
  | .a64 => 64

/-- The four mnemonics (30_encoding.md R106). -/
inductive RotOp where
  | rol | ror | rcl | rcr
  deriving DecidableEq, Repr

/-- Where the count comes from (30_encoding.md R104, R114): the constant 1, `CL`, or `ib`. -/
inductive Count where
  | one
  | cl
  | imm (ib : Byte)
  deriving DecidableEq, Repr

/-- The destination column of a row, with the REX bits the row carries: `r/m8` has no REX, `r/m8*`
any REX, `r/m16` and `r/m32` an optional REX with W = 0, `r/m64` a REX with W = 1
(30_encoding.md R107, R122). -/
inductive Row where
  | rm8
  | rm8x (rex : Rex)
  | rm16 (rex : Option Rxb)
  | rm32 (rex : Option Rxb)
  | rm64 (rex : Rxb)
  deriving DecidableEq, Repr

/-- A row of the table taken apart: its mnemonic, its count, its destination column, its legacy
prefixes in the order they stand, and its operand. Every instruction is one (`view` of
Decode.lean), and every one is an instruction. -/
structure Rotate where
  op : RotOp
  count : Count
  row : Row
  pre : List Legacy
  dst : Rm
  deriving DecidableEq, Repr

/-- The 60 rows of spec/opcode_table.json, in its order. `pre` are the legacy prefixes in the order
they stand, `rex` the REX byte (or the part of it the row leaves open), `dst` the operand, `imm` the
immediate byte. -/
inductive Instr where
  /-- `RCL r/m8, 1` (R201). -/
  | rclRm8One (pre : List Legacy) (dst : Rm)
  /-- `RCL r/m8*, 1` (R202). -/
  | rclRm8XOne (pre : List Legacy) (rex : Rex) (dst : Rm)
  /-- `RCL r/m8, CL` (R203). -/
  | rclRm8Cl (pre : List Legacy) (dst : Rm)
  /-- `RCL r/m8*, CL` (R204). -/
  | rclRm8XCl (pre : List Legacy) (rex : Rex) (dst : Rm)
  /-- `RCL r/m8, imm8` (R205). -/
  | rclRm8Imm (pre : List Legacy) (dst : Rm) (imm : Byte)
  /-- `RCL r/m8*, imm8` (R206). -/
  | rclRm8XImm (pre : List Legacy) (rex : Rex) (dst : Rm) (imm : Byte)
  /-- `RCL r/m16, 1` (R207). -/
  | rclRm16One (pre : List Legacy) (rex : Option Rxb) (dst : Rm)
  /-- `RCL r/m16, CL` (R208). -/
  | rclRm16Cl (pre : List Legacy) (rex : Option Rxb) (dst : Rm)
  /-- `RCL r/m16, imm8` (R209). -/
  | rclRm16Imm (pre : List Legacy) (rex : Option Rxb) (dst : Rm) (imm : Byte)
  /-- `RCL r/m32, 1` (R210). -/
  | rclRm32One (pre : List Legacy) (rex : Option Rxb) (dst : Rm)
  /-- `RCL r/m64, 1` (R211). -/
  | rclRm64One (pre : List Legacy) (rex : Rxb) (dst : Rm)
  /-- `RCL r/m32, CL` (R212). -/
  | rclRm32Cl (pre : List Legacy) (rex : Option Rxb) (dst : Rm)
  /-- `RCL r/m64, CL` (R213). -/
  | rclRm64Cl (pre : List Legacy) (rex : Rxb) (dst : Rm)
  /-- `RCL r/m32, imm8` (R214). -/
  | rclRm32Imm (pre : List Legacy) (rex : Option Rxb) (dst : Rm) (imm : Byte)
  /-- `RCL r/m64, imm8` (R215). -/
  | rclRm64Imm (pre : List Legacy) (rex : Rxb) (dst : Rm) (imm : Byte)
  /-- `RCR r/m8, 1` (R221). -/
  | rcrRm8One (pre : List Legacy) (dst : Rm)
  /-- `RCR r/m8*, 1` (R222). -/
  | rcrRm8XOne (pre : List Legacy) (rex : Rex) (dst : Rm)
  /-- `RCR r/m8, CL` (R223). -/
  | rcrRm8Cl (pre : List Legacy) (dst : Rm)
  /-- `RCR r/m8*, CL` (R224). -/
  | rcrRm8XCl (pre : List Legacy) (rex : Rex) (dst : Rm)
  /-- `RCR r/m8, imm8` (R225). -/
  | rcrRm8Imm (pre : List Legacy) (dst : Rm) (imm : Byte)
  /-- `RCR r/m8*, imm8` (R226). -/
  | rcrRm8XImm (pre : List Legacy) (rex : Rex) (dst : Rm) (imm : Byte)
  /-- `RCR r/m16, 1` (R227). -/
  | rcrRm16One (pre : List Legacy) (rex : Option Rxb) (dst : Rm)
  /-- `RCR r/m16, CL` (R228). -/
  | rcrRm16Cl (pre : List Legacy) (rex : Option Rxb) (dst : Rm)
  /-- `RCR r/m16, imm8` (R229). -/
  | rcrRm16Imm (pre : List Legacy) (rex : Option Rxb) (dst : Rm) (imm : Byte)
  /-- `RCR r/m32, 1` (R230). -/
  | rcrRm32One (pre : List Legacy) (rex : Option Rxb) (dst : Rm)
  /-- `RCR r/m64, 1` (R231). -/
  | rcrRm64One (pre : List Legacy) (rex : Rxb) (dst : Rm)
  /-- `RCR r/m32, CL` (R232). -/
  | rcrRm32Cl (pre : List Legacy) (rex : Option Rxb) (dst : Rm)
  /-- `RCR r/m64, CL` (R233). -/
  | rcrRm64Cl (pre : List Legacy) (rex : Rxb) (dst : Rm)
  /-- `RCR r/m32, imm8` (R234). -/
  | rcrRm32Imm (pre : List Legacy) (rex : Option Rxb) (dst : Rm) (imm : Byte)
  /-- `RCR r/m64, imm8` (R235). -/
  | rcrRm64Imm (pre : List Legacy) (rex : Rxb) (dst : Rm) (imm : Byte)
  /-- `ROL r/m8, 1` (R241). -/
  | rolRm8One (pre : List Legacy) (dst : Rm)
  /-- `ROL r/m8*, 1` (R242). -/
  | rolRm8XOne (pre : List Legacy) (rex : Rex) (dst : Rm)
  /-- `ROL r/m8, CL` (R243). -/
  | rolRm8Cl (pre : List Legacy) (dst : Rm)
  /-- `ROL r/m8*, CL` (R244). -/
  | rolRm8XCl (pre : List Legacy) (rex : Rex) (dst : Rm)
  /-- `ROL r/m8, imm8` (R245). -/
  | rolRm8Imm (pre : List Legacy) (dst : Rm) (imm : Byte)
  /-- `ROL r/m8*, imm8` (R246). -/
  | rolRm8XImm (pre : List Legacy) (rex : Rex) (dst : Rm) (imm : Byte)
  /-- `ROL r/m16, 1` (R247). -/
  | rolRm16One (pre : List Legacy) (rex : Option Rxb) (dst : Rm)
  /-- `ROL r/m16, CL` (R248). -/
  | rolRm16Cl (pre : List Legacy) (rex : Option Rxb) (dst : Rm)
  /-- `ROL r/m16, imm8` (R249). -/
  | rolRm16Imm (pre : List Legacy) (rex : Option Rxb) (dst : Rm) (imm : Byte)
  /-- `ROL r/m32, 1` (R250). -/
  | rolRm32One (pre : List Legacy) (rex : Option Rxb) (dst : Rm)
  /-- `ROL r/m64, 1` (R251). -/
  | rolRm64One (pre : List Legacy) (rex : Rxb) (dst : Rm)
  /-- `ROL r/m32, CL` (R252). -/
  | rolRm32Cl (pre : List Legacy) (rex : Option Rxb) (dst : Rm)
  /-- `ROL r/m64, CL` (R253). -/
  | rolRm64Cl (pre : List Legacy) (rex : Rxb) (dst : Rm)
  /-- `ROL r/m32, imm8` (R254). -/
  | rolRm32Imm (pre : List Legacy) (rex : Option Rxb) (dst : Rm) (imm : Byte)
  /-- `ROL r/m64, imm8` (R255). -/
  | rolRm64Imm (pre : List Legacy) (rex : Rxb) (dst : Rm) (imm : Byte)
  /-- `ROR r/m8, 1` (R261). -/
  | rorRm8One (pre : List Legacy) (dst : Rm)
  /-- `ROR r/m8*, 1` (R262). -/
  | rorRm8XOne (pre : List Legacy) (rex : Rex) (dst : Rm)
  /-- `ROR r/m8, CL` (R263). -/
  | rorRm8Cl (pre : List Legacy) (dst : Rm)
  /-- `ROR r/m8*, CL` (R264). -/
  | rorRm8XCl (pre : List Legacy) (rex : Rex) (dst : Rm)
  /-- `ROR r/m8, imm8` (R265). -/
  | rorRm8Imm (pre : List Legacy) (dst : Rm) (imm : Byte)
  /-- `ROR r/m8*, imm8` (R266). -/
  | rorRm8XImm (pre : List Legacy) (rex : Rex) (dst : Rm) (imm : Byte)
  /-- `ROR r/m16, 1` (R267). -/
  | rorRm16One (pre : List Legacy) (rex : Option Rxb) (dst : Rm)
  /-- `ROR r/m16, CL` (R268). -/
  | rorRm16Cl (pre : List Legacy) (rex : Option Rxb) (dst : Rm)
  /-- `ROR r/m16, imm8` (R269). -/
  | rorRm16Imm (pre : List Legacy) (rex : Option Rxb) (dst : Rm) (imm : Byte)
  /-- `ROR r/m32, 1` (R270). -/
  | rorRm32One (pre : List Legacy) (rex : Option Rxb) (dst : Rm)
  /-- `ROR r/m64, 1` (R271). -/
  | rorRm64One (pre : List Legacy) (rex : Rxb) (dst : Rm)
  /-- `ROR r/m32, CL` (R272). -/
  | rorRm32Cl (pre : List Legacy) (rex : Option Rxb) (dst : Rm)
  /-- `ROR r/m64, CL` (R273). -/
  | rorRm64Cl (pre : List Legacy) (rex : Rxb) (dst : Rm)
  /-- `ROR r/m32, imm8` (R274). -/
  | rorRm32Imm (pre : List Legacy) (rex : Option Rxb) (dst : Rm) (imm : Byte)
  /-- `ROR r/m64, imm8` (R275). -/
  | rorRm64Imm (pre : List Legacy) (rex : Rxb) (dst : Rm) (imm : Byte)
  deriving DecidableEq, Repr

/-- Why a byte string is given no meaning (30_encoding.md R118). Each is a refusal, not a fault: it
errs toward unprovable, so it is safe. -/
inductive Reject where
  /-- An opcode byte that is not one of the six (R118, D17). -/
  | otherOpcode (b : Byte)
  /-- One of the six opcode bytes with ModRM.reg in 4 to 7 (R118, D17). -/
  | shiftGroup (digit : BitVec 3)
  /-- `F2` or `F3` (R118, D13). -/
  | repeatByte
  /-- Two legacy prefixes of one group (R118, D13). -/
  | repeatedGroup
  /-- A REX byte followed by a legacy prefix or by a second REX byte (R103, R118, D13). -/
  | rexNotLast
  /-- A byte `40` to `4F` outside 64-bit mode (R117, R118). -/
  | rexOutsideLong64
  deriving DecidableEq, Repr

end Sys2Proof
end

