-- ==== Sys2Proof/Machine/State.lean ====
section
/-! DEFINITION. The state of the machine as plain data: everything spec/10_state.md R20 names, and the
registers of R33 and spec/70_reset_and_hazards.md R350 behind it; the launch data of R351; the ways a
step can stop; and the state after reset. -/

namespace Sys2Proof.Machine

/-- A 64-bit general register (10_state.md R21) as its two halves: outside 64-bit mode bits 63:32
are not visible and may hold any value (R23), and keeping them apart keeps the visible half plain. -/
structure GReg where
  hi : Word32
  lo : Word32
  deriving DecidableEq, Repr

/-- RFLAGS by its named bits (10_state.md R27); `rflagsWord` of Machine/Flags.lean is the 64-bit
register, with the reserved bits at their constants. -/
structure Flags where
  /-- bit 0, carry -/
  cf : Bool
  /-- bit 2, parity -/
  pf : Bool
  /-- bit 4, auxiliary carry -/
  af : Bool
  /-- bit 6, zero -/
  zf : Bool
  /-- bit 7, sign -/
  sf : Bool
  /-- bit 8, trap -/
  tf : Bool
  /-- bit 9, IF, interrupt enable -/
  ie : Bool
  /-- bit 10, direction -/
  df : Bool
  /-- bit 11, overflow -/
  of : Bool
  /-- bits 13:12, IOPL -/
  iopl : BitVec 2
  /-- bit 14, NT -/
  nt : Bool
  /-- bit 16, RF -/
  rf : Bool
  /-- bit 17, virtual-8086 -/
  vm : Bool
  /-- bit 18, alignment check -/
  ac : Bool
  /-- bit 19, VIF -/
  vif : Bool
  /-- bit 20, VIP -/
  vip : Bool
  /-- bit 21, ID -/
  id : Bool
  deriving DecidableEq, Repr

/-- A range of segment offsets, both ends included. -/
structure OffsetRange where
  first : Nat
  last : Nat
  deriving DecidableEq, Repr

/-- A segment record (10_state.md R32): the selector, whose null test R9 gives; the base; the offsets
inside the limit, from which `InLimit` is computed; and whether it may be written. -/
structure Seg where
  selector : BitVec 16
  base : Word64
  offsets : List OffsetRange
  writable : Bool
  deriving DecidableEq, Repr

/-- The kinds of access the `Translate` oracle distinguishes (20_memory.md R67). -/
inductive Access where
  | read | write | execute
  deriving DecidableEq, Repr

/-- What `Translate` answers for the linear addresses of a rule (20_memory.md R67): the physical
address of the rule's first address, the others following it; or a page fault with a code. -/
inductive PageResult where
  | ok (pa : Word64)
  | pageFault (code : Word32)
  deriving DecidableEq, Repr

/-- One rule of the `Translate` oracle: the linear addresses, the access (`none`: any) and the CPL
(`none`: any) it is for, and its answer. Every `Translate` is a finite list of such rules. -/
structure PageRule where
  first : Word64
  last : Word64
  access : Option Access
  cpl : Option (BitVec 2)
  result : PageResult
  deriving DecidableEq, Repr

/-- `VA_BITS` (00_scope.md R5): 48 or 57 linear-address bits. -/
inductive VaBits where
  | va48 | va57
  deriving DecidableEq, Repr

/-- The number of linear-address bits (20_memory.md R69). -/
abbrev VaBits.width : VaBits → Nat
  | .va48 => 48
  | .va57 => 57

/-- The machine's state. -/
structure State where
  /-- RAX, RCX, RDX, RBX, RSP, RBP, RSI, RDI, R8 to R15 (10_state.md R21). -/
  regs : Vector GReg 16
  /-- RIP (10_state.md R26). -/
  rip : Word64
  /-- RFLAGS (10_state.md R27). -/
  flags : Flags
  /-- The six segment registers (10_state.md R32). -/
  es : Seg
  cs : Seg
  ss : Seg
  ds : Seg
  fs : Seg
  gs : Seg
  /-- CS.L, bit 53 of the code-segment descriptor (10_state.md R33). -/
  csL : Bool
  /-- CS.D, bit 54 of the code-segment descriptor (10_state.md R33). -/
  csD : Bool
  /-- CR0 (10_state.md R33, 70_reset_and_hazards.md R350). -/
  cr0 : Word64
  /-- CR2; no rule reads or writes it (10_state.md R33; assumption log 22). -/
  cr2 : Word64
  /-- CR3; its effect is inside `translation` (10_state.md R33; assumption log 22). -/
  cr3 : Word64
  /-- CR4; its effect is inside `translation` (10_state.md R33; assumption log 22). -/
  cr4 : Word64
  /-- IA32_EFER (10_state.md R33). -/
  efer : Word64
  /-- IDTR base and limit; no rule reads or writes them (70_reset_and_hazards.md R350; log 22). -/
  idtrBase : Word64
  idtrLimit : BitVec 16
  /-- DR6 and DR7; no rule reads or writes them (70_reset_and_hazards.md R350; log 22). -/
  dr6 : Word64
  dr7 : Word64
  /-- The `Translate` oracle of the launch (20_memory.md R67); no matching rule: the identity. -/
  translation : List PageRule
  /-- `VA_BITS` of the launch (20_memory.md R69). -/
  vaBits : VaBits
  /-- Memory by physical address (10_state.md R34): addresses rising, no byte 0 listed. -/
  mem : List Host.Cell
  /-- The model's own counter of free values (assumption log 6). -/
  drawIndex : Nat
  deriving DecidableEq, Repr

/-- The exceptions that end a run (60_exceptions.md R300, R312), each with the address of the
faulting instruction. All are raised by the spec's own rules before anything is changed (R311), and
all are safe: the machine's own handler would go on, the model stops. -/
inductive Fault where
  /-- `#UD`, vector 6: raised by a rotate with a LOCK prefix (R301). Safe. -/
  | ud (rip : Word64)
  /-- `#SS`, vector 12: raised by a memory operand in SS outside the limit or not canonical (R303);
  no error code in `Real`, else 0 (R313). Safe. -/
  | ss (errorCode : Option Word32) (rip : Word64)
  /-- `#GP`, vector 13: raised by a memory operand outside a limit, in a null or non-writable segment,
  or not canonical (R302), or by an instruction fetch (20_memory.md R76); no error code in `Real`,
  else 0 (R313). Safe. -/
  | gp (errorCode : Option Word32) (rip : Word64)
  /-- `#PF`, vector 14: raised by a memory operand or a fetch that `Translate` refuses, with its code
  and the linear address the hardware places in CR2 (R304). Safe. -/
  | pf (errorCode : Word32) (address : Word64) (rip : Word64)
  /-- `#AC`, vector 17, error code 0: raised by an unaligned memory operand at CPL 3 with alignment
  checking on (R316). Safe. -/
  | ac (rip : Word64)
  deriving DecidableEq, Repr

/-- What the model gives no meaning to. Every one is safe: nothing can be proved past it. -/
inductive Refusal where
  /-- Raised by an arm of `exec` whose instruction has no meaning yet; none has. Safe. -/
  | notModelled (mnemonic : String)
  /-- Raised by `step` on bytes that are not one of the 60 rows (30_encoding.md R118). Safe. -/
  | undecoded (why : Reject)
  /-- Raised by `step` when RFLAGS.TF is 1: single-step is not modelled and such a launch is refused
  (60_exceptions.md R331). Safe. -/
  | singleStep
  deriving DecidableEq, Repr

/-- What a meaning or a step answers. -/
abbrev Result := Host.Outcome State Fault Refusal

/-- A segment after reset (10_state.md R36): limit `0xFFFF`, writable. -/
def Seg.atReset (selector : BitVec 16) (base : Word64) : Seg :=
  ⟨selector, base, [⟨0, 0xFFFF⟩], true⟩

/-- RFLAGS after reset, `0x2` (10_state.md R31): every named bit 0. -/
def Flags.atReset : Flags :=
  ⟨false, false, false, false, false, false, false, false, false, 0, false, false, false, false, false, false,
    false⟩

/-- The state after a hardware reset (10_state.md R36, 70_reset_and_hazards.md R350; assumption log
3, and 4 and 5 for the values the spec does not give). -/
def State.reset : State where
  regs := Vector.replicate 16 ⟨0, 0⟩
  rip := 0xFFF0
  flags := Flags.atReset
  es := Seg.atReset 0 0
  cs := Seg.atReset 0xF000 0xFFFF0000
  ss := Seg.atReset 0 0
  ds := Seg.atReset 0 0
  fs := Seg.atReset 0 0
  gs := Seg.atReset 0 0
  csL := false
  csD := false
  cr0 := 0x60000010
  cr2 := 0
  cr3 := 0
  cr4 := 0
  efer := 0
  idtrBase := 0
  idtrLimit := 0xFFFF
  dr6 := 0xFFFF0FF0
  dr7 := 0x400
  translation := []
  vaBits := .va48
  mem := []
  drawIndex := 0

end Sys2Proof.Machine
end

