-- ==== Sys2Proof/Machine/Flags.lean ====
section
/-! DEFINITION. RFLAGS as a 64-bit word, the count mask, the effective rotate amount, and the flags a
rotate leaves (spec/10_state.md R27, spec/40_rotate_common.md R162, R163, R166 to R170). -/

namespace Sys2Proof.Machine

/-- RFLAGS as the 64-bit register (10_state.md R27): bit 1 is 1, the other reserved bits are 0. -/
def rflagsWord (f : Flags) : Word64 :=
  0#42 ++ BitVec.ofBool f.id ++ BitVec.ofBool f.vip ++ BitVec.ofBool f.vif ++ BitVec.ofBool f.ac
    ++ BitVec.ofBool f.vm ++ BitVec.ofBool f.rf ++ 0#1 ++ BitVec.ofBool f.nt ++ f.iopl
    ++ BitVec.ofBool f.of ++ BitVec.ofBool f.df ++ BitVec.ofBool f.ie ++ BitVec.ofBool f.tf
    ++ BitVec.ofBool f.sf ++ BitVec.ofBool f.zf ++ 0#1 ++ BitVec.ofBool f.af ++ 0#1
    ++ BitVec.ofBool f.pf ++ 1#1 ++ BitVec.ofBool f.cf

/-- The flags a launch's RFLAGS word gives (10_state.md R27, 70_reset_and_hazards.md R351). -/
def flagsOfWord (w : Word64) : Flags where
  cf := w.getLsbD 0
  pf := w.getLsbD 2
  af := w.getLsbD 4
  zf := w.getLsbD 6
  sf := w.getLsbD 7
  tf := w.getLsbD 8
  ie := w.getLsbD 9
  df := w.getLsbD 10
  of := w.getLsbD 11
  iopl := w.extractLsb' 12 2
  nt := w.getLsbD 14
  rf := w.getLsbD 16
  vm := w.getLsbD 17
  ac := w.getLsbD 18
  vif := w.getLsbD 19
  vip := w.getLsbD 20
  id := w.getLsbD 21

/-- `COUNTMASK` (40_rotate_common.md R162): `3F` for a 64-bit operand, else `1F`, in every mode. -/
def countMask (n : OpSize) : Byte :=
  match n with
  | .b8 => 0x1F#8
  | .b16 => 0x1F#8
  | .b32 => 0x1F#8
  | .b64 => 0x3F#8

/-- The masked count `m` (40_rotate_common.md R162). -/
def maskedCount (n : OpSize) (count : Byte) : Nat := (count &&& countMask n).toNat

/-- The effective amount `t` (40_rotate_common.md R163): `m` modulo the period, `n + 1` bits with the
carry at sizes 8 and 16 and `n` bits without it; the masked count is below the period elsewhere. -/
def rotateAmount (op : RotOp) (n : OpSize) (m : Nat) : Nat :=
  match op, n with
  | .rcl, .b8 => m % 9
  | .rcl, .b16 => m % 17
  | .rcl, .b32 => m
  | .rcl, .b64 => m
  | .rcr, .b8 => m % 9
  | .rcr, .b16 => m % 17
  | .rcr, .b32 => m
  | .rcr, .b64 => m
  | .rol, n => m % n.bits
  | .ror, n => m % n.bits

/-- The flags after a rotate with masked count `m` (40_rotate_common.md R166 to R170): none written
when `m` is 0; CF written when it is not; OF written with `ov` when `m` is 1, and with `free`, an open
value, when `m` is greater (R169, assumption log 6). No other flag is written. -/
def rotateFlags (f : Flags) (m : Nat) (cf ov free : Bool) : Flags :=
  if m = 0 then f
  else if m = 1 then { f with cf := cf, of := ov }
  else { f with cf := cf, of := free }

end Sys2Proof.Machine
end

