-- ==== Sys2Proof/Decode.lean ====
section
/-! DEFINITION. The decoder, total on any bytes, and the encoder, both from the tables of
spec/30_encoding.md. `decode` reads one instruction from the front of a byte list and gives the
bytes that are left; `encode` writes the bytes of an instruction. -/

namespace Sys2Proof

/-! ## Rows and their parts -/

/-- The parts of an instruction: mnemonic, count, destination column, prefixes, operand. -/
def view : Instr → Rotate
  | .rclRm8One pre dst => ⟨.rcl, .one, .rm8, pre, dst⟩
  | .rclRm8XOne pre rex dst => ⟨.rcl, .one, .rm8x rex, pre, dst⟩
  | .rclRm8Cl pre dst => ⟨.rcl, .cl, .rm8, pre, dst⟩
  | .rclRm8XCl pre rex dst => ⟨.rcl, .cl, .rm8x rex, pre, dst⟩
  | .rclRm8Imm pre dst imm => ⟨.rcl, .imm imm, .rm8, pre, dst⟩
  | .rclRm8XImm pre rex dst imm => ⟨.rcl, .imm imm, .rm8x rex, pre, dst⟩
  | .rclRm16One pre rex dst => ⟨.rcl, .one, .rm16 rex, pre, dst⟩
  | .rclRm16Cl pre rex dst => ⟨.rcl, .cl, .rm16 rex, pre, dst⟩
  | .rclRm16Imm pre rex dst imm => ⟨.rcl, .imm imm, .rm16 rex, pre, dst⟩
  | .rclRm32One pre rex dst => ⟨.rcl, .one, .rm32 rex, pre, dst⟩
  | .rclRm64One pre rex dst => ⟨.rcl, .one, .rm64 rex, pre, dst⟩
  | .rclRm32Cl pre rex dst => ⟨.rcl, .cl, .rm32 rex, pre, dst⟩
  | .rclRm64Cl pre rex dst => ⟨.rcl, .cl, .rm64 rex, pre, dst⟩
  | .rclRm32Imm pre rex dst imm => ⟨.rcl, .imm imm, .rm32 rex, pre, dst⟩
  | .rclRm64Imm pre rex dst imm => ⟨.rcl, .imm imm, .rm64 rex, pre, dst⟩
  | .rcrRm8One pre dst => ⟨.rcr, .one, .rm8, pre, dst⟩
  | .rcrRm8XOne pre rex dst => ⟨.rcr, .one, .rm8x rex, pre, dst⟩
  | .rcrRm8Cl pre dst => ⟨.rcr, .cl, .rm8, pre, dst⟩
  | .rcrRm8XCl pre rex dst => ⟨.rcr, .cl, .rm8x rex, pre, dst⟩
  | .rcrRm8Imm pre dst imm => ⟨.rcr, .imm imm, .rm8, pre, dst⟩
  | .rcrRm8XImm pre rex dst imm => ⟨.rcr, .imm imm, .rm8x rex, pre, dst⟩
  | .rcrRm16One pre rex dst => ⟨.rcr, .one, .rm16 rex, pre, dst⟩
  | .rcrRm16Cl pre rex dst => ⟨.rcr, .cl, .rm16 rex, pre, dst⟩
  | .rcrRm16Imm pre rex dst imm => ⟨.rcr, .imm imm, .rm16 rex, pre, dst⟩
  | .rcrRm32One pre rex dst => ⟨.rcr, .one, .rm32 rex, pre, dst⟩
  | .rcrRm64One pre rex dst => ⟨.rcr, .one, .rm64 rex, pre, dst⟩
  | .rcrRm32Cl pre rex dst => ⟨.rcr, .cl, .rm32 rex, pre, dst⟩
  | .rcrRm64Cl pre rex dst => ⟨.rcr, .cl, .rm64 rex, pre, dst⟩
  | .rcrRm32Imm pre rex dst imm => ⟨.rcr, .imm imm, .rm32 rex, pre, dst⟩
  | .rcrRm64Imm pre rex dst imm => ⟨.rcr, .imm imm, .rm64 rex, pre, dst⟩
  | .rolRm8One pre dst => ⟨.rol, .one, .rm8, pre, dst⟩
  | .rolRm8XOne pre rex dst => ⟨.rol, .one, .rm8x rex, pre, dst⟩
  | .rolRm8Cl pre dst => ⟨.rol, .cl, .rm8, pre, dst⟩
  | .rolRm8XCl pre rex dst => ⟨.rol, .cl, .rm8x rex, pre, dst⟩
  | .rolRm8Imm pre dst imm => ⟨.rol, .imm imm, .rm8, pre, dst⟩
  | .rolRm8XImm pre rex dst imm => ⟨.rol, .imm imm, .rm8x rex, pre, dst⟩
  | .rolRm16One pre rex dst => ⟨.rol, .one, .rm16 rex, pre, dst⟩
  | .rolRm16Cl pre rex dst => ⟨.rol, .cl, .rm16 rex, pre, dst⟩
  | .rolRm16Imm pre rex dst imm => ⟨.rol, .imm imm, .rm16 rex, pre, dst⟩
  | .rolRm32One pre rex dst => ⟨.rol, .one, .rm32 rex, pre, dst⟩
  | .rolRm64One pre rex dst => ⟨.rol, .one, .rm64 rex, pre, dst⟩
  | .rolRm32Cl pre rex dst => ⟨.rol, .cl, .rm32 rex, pre, dst⟩
  | .rolRm64Cl pre rex dst => ⟨.rol, .cl, .rm64 rex, pre, dst⟩
  | .rolRm32Imm pre rex dst imm => ⟨.rol, .imm imm, .rm32 rex, pre, dst⟩
  | .rolRm64Imm pre rex dst imm => ⟨.rol, .imm imm, .rm64 rex, pre, dst⟩
  | .rorRm8One pre dst => ⟨.ror, .one, .rm8, pre, dst⟩
  | .rorRm8XOne pre rex dst => ⟨.ror, .one, .rm8x rex, pre, dst⟩
  | .rorRm8Cl pre dst => ⟨.ror, .cl, .rm8, pre, dst⟩
  | .rorRm8XCl pre rex dst => ⟨.ror, .cl, .rm8x rex, pre, dst⟩
  | .rorRm8Imm pre dst imm => ⟨.ror, .imm imm, .rm8, pre, dst⟩
  | .rorRm8XImm pre rex dst imm => ⟨.ror, .imm imm, .rm8x rex, pre, dst⟩
  | .rorRm16One pre rex dst => ⟨.ror, .one, .rm16 rex, pre, dst⟩
  | .rorRm16Cl pre rex dst => ⟨.ror, .cl, .rm16 rex, pre, dst⟩
  | .rorRm16Imm pre rex dst imm => ⟨.ror, .imm imm, .rm16 rex, pre, dst⟩
  | .rorRm32One pre rex dst => ⟨.ror, .one, .rm32 rex, pre, dst⟩
  | .rorRm64One pre rex dst => ⟨.ror, .one, .rm64 rex, pre, dst⟩
  | .rorRm32Cl pre rex dst => ⟨.ror, .cl, .rm32 rex, pre, dst⟩
  | .rorRm64Cl pre rex dst => ⟨.ror, .cl, .rm64 rex, pre, dst⟩
  | .rorRm32Imm pre rex dst imm => ⟨.ror, .imm imm, .rm32 rex, pre, dst⟩
  | .rorRm64Imm pre rex dst imm => ⟨.ror, .imm imm, .rm64 rex, pre, dst⟩

/-- The instruction with the given parts; inverse of `view`. -/
def ofView : Rotate → Instr
  | ⟨.rcl, .one, .rm8, pre, dst⟩ => .rclRm8One pre dst
  | ⟨.rcl, .one, .rm8x rex, pre, dst⟩ => .rclRm8XOne pre rex dst
  | ⟨.rcl, .cl, .rm8, pre, dst⟩ => .rclRm8Cl pre dst
  | ⟨.rcl, .cl, .rm8x rex, pre, dst⟩ => .rclRm8XCl pre rex dst
  | ⟨.rcl, .imm imm, .rm8, pre, dst⟩ => .rclRm8Imm pre dst imm
  | ⟨.rcl, .imm imm, .rm8x rex, pre, dst⟩ => .rclRm8XImm pre rex dst imm
  | ⟨.rcl, .one, .rm16 rex, pre, dst⟩ => .rclRm16One pre rex dst
  | ⟨.rcl, .cl, .rm16 rex, pre, dst⟩ => .rclRm16Cl pre rex dst
  | ⟨.rcl, .imm imm, .rm16 rex, pre, dst⟩ => .rclRm16Imm pre rex dst imm
  | ⟨.rcl, .one, .rm32 rex, pre, dst⟩ => .rclRm32One pre rex dst
  | ⟨.rcl, .one, .rm64 rex, pre, dst⟩ => .rclRm64One pre rex dst
  | ⟨.rcl, .cl, .rm32 rex, pre, dst⟩ => .rclRm32Cl pre rex dst
  | ⟨.rcl, .cl, .rm64 rex, pre, dst⟩ => .rclRm64Cl pre rex dst
  | ⟨.rcl, .imm imm, .rm32 rex, pre, dst⟩ => .rclRm32Imm pre rex dst imm
  | ⟨.rcl, .imm imm, .rm64 rex, pre, dst⟩ => .rclRm64Imm pre rex dst imm
  | ⟨.rcr, .one, .rm8, pre, dst⟩ => .rcrRm8One pre dst
  | ⟨.rcr, .one, .rm8x rex, pre, dst⟩ => .rcrRm8XOne pre rex dst
  | ⟨.rcr, .cl, .rm8, pre, dst⟩ => .rcrRm8Cl pre dst
  | ⟨.rcr, .cl, .rm8x rex, pre, dst⟩ => .rcrRm8XCl pre rex dst
  | ⟨.rcr, .imm imm, .rm8, pre, dst⟩ => .rcrRm8Imm pre dst imm
  | ⟨.rcr, .imm imm, .rm8x rex, pre, dst⟩ => .rcrRm8XImm pre rex dst imm
  | ⟨.rcr, .one, .rm16 rex, pre, dst⟩ => .rcrRm16One pre rex dst
  | ⟨.rcr, .cl, .rm16 rex, pre, dst⟩ => .rcrRm16Cl pre rex dst
  | ⟨.rcr, .imm imm, .rm16 rex, pre, dst⟩ => .rcrRm16Imm pre rex dst imm
  | ⟨.rcr, .one, .rm32 rex, pre, dst⟩ => .rcrRm32One pre rex dst
  | ⟨.rcr, .one, .rm64 rex, pre, dst⟩ => .rcrRm64One pre rex dst
  | ⟨.rcr, .cl, .rm32 rex, pre, dst⟩ => .rcrRm32Cl pre rex dst
  | ⟨.rcr, .cl, .rm64 rex, pre, dst⟩ => .rcrRm64Cl pre rex dst
  | ⟨.rcr, .imm imm, .rm32 rex, pre, dst⟩ => .rcrRm32Imm pre rex dst imm
  | ⟨.rcr, .imm imm, .rm64 rex, pre, dst⟩ => .rcrRm64Imm pre rex dst imm
  | ⟨.rol, .one, .rm8, pre, dst⟩ => .rolRm8One pre dst
  | ⟨.rol, .one, .rm8x rex, pre, dst⟩ => .rolRm8XOne pre rex dst
  | ⟨.rol, .cl, .rm8, pre, dst⟩ => .rolRm8Cl pre dst
  | ⟨.rol, .cl, .rm8x rex, pre, dst⟩ => .rolRm8XCl pre rex dst
  | ⟨.rol, .imm imm, .rm8, pre, dst⟩ => .rolRm8Imm pre dst imm
  | ⟨.rol, .imm imm, .rm8x rex, pre, dst⟩ => .rolRm8XImm pre rex dst imm
  | ⟨.rol, .one, .rm16 rex, pre, dst⟩ => .rolRm16One pre rex dst
  | ⟨.rol, .cl, .rm16 rex, pre, dst⟩ => .rolRm16Cl pre rex dst
  | ⟨.rol, .imm imm, .rm16 rex, pre, dst⟩ => .rolRm16Imm pre rex dst imm
  | ⟨.rol, .one, .rm32 rex, pre, dst⟩ => .rolRm32One pre rex dst
  | ⟨.rol, .one, .rm64 rex, pre, dst⟩ => .rolRm64One pre rex dst
  | ⟨.rol, .cl, .rm32 rex, pre, dst⟩ => .rolRm32Cl pre rex dst
  | ⟨.rol, .cl, .rm64 rex, pre, dst⟩ => .rolRm64Cl pre rex dst
  | ⟨.rol, .imm imm, .rm32 rex, pre, dst⟩ => .rolRm32Imm pre rex dst imm
  | ⟨.rol, .imm imm, .rm64 rex, pre, dst⟩ => .rolRm64Imm pre rex dst imm
  | ⟨.ror, .one, .rm8, pre, dst⟩ => .rorRm8One pre dst
  | ⟨.ror, .one, .rm8x rex, pre, dst⟩ => .rorRm8XOne pre rex dst
  | ⟨.ror, .cl, .rm8, pre, dst⟩ => .rorRm8Cl pre dst
  | ⟨.ror, .cl, .rm8x rex, pre, dst⟩ => .rorRm8XCl pre rex dst
  | ⟨.ror, .imm imm, .rm8, pre, dst⟩ => .rorRm8Imm pre dst imm
  | ⟨.ror, .imm imm, .rm8x rex, pre, dst⟩ => .rorRm8XImm pre rex dst imm
  | ⟨.ror, .one, .rm16 rex, pre, dst⟩ => .rorRm16One pre rex dst
  | ⟨.ror, .cl, .rm16 rex, pre, dst⟩ => .rorRm16Cl pre rex dst
  | ⟨.ror, .imm imm, .rm16 rex, pre, dst⟩ => .rorRm16Imm pre rex dst imm
  | ⟨.ror, .one, .rm32 rex, pre, dst⟩ => .rorRm32One pre rex dst
  | ⟨.ror, .one, .rm64 rex, pre, dst⟩ => .rorRm64One pre rex dst
  | ⟨.ror, .cl, .rm32 rex, pre, dst⟩ => .rorRm32Cl pre rex dst
  | ⟨.ror, .cl, .rm64 rex, pre, dst⟩ => .rorRm64Cl pre rex dst
  | ⟨.ror, .imm imm, .rm32 rex, pre, dst⟩ => .rorRm32Imm pre rex dst imm
  | ⟨.ror, .imm imm, .rm64 rex, pre, dst⟩ => .rorRm64Imm pre rex dst imm

/-- The operand size of a row (the `opsize` of opcode_table.json, 30_encoding.md R122). -/
def Row.size : Row → OpSize
  | .rm8 => .b8
  | .rm8x _ => .b8
  | .rm16 _ => .b16
  | .rm32 _ => .b32
  | .rm64 _ => .b64

/-- The REX byte a row carries, if any: W is 0 in an `r/m16` or `r/m32` row and 1 in an `r/m64` row
(30_encoding.md R107). -/
def Row.rex : Row → Option Rex
  | .rm8 => none
  | .rm8x x => some x
  | .rm16 y => y.map (Rex.mk false)
  | .rm32 y => y.map (Rex.mk false)
  | .rm64 y => some ⟨true, y⟩

/-- REX.X of a row, 0 when it has no REX byte (30_encoding.md R103, R111). -/
def Row.rexX (w : Row) : Bool := (w.rex.map (·.rxb.x)).getD false

/-- REX.B of a row, 0 when it has no REX byte (30_encoding.md R103, R109). -/
def Row.rexB (w : Row) : Bool := (w.rex.map (·.rxb.b)).getD false

/-! ## Bytes of the parts -/

/-- The byte of a segment override (30_encoding.md R101). -/
def overrideByte : SegReg → Byte
  | .es => 0x26#8
  | .cs => 0x2E#8
  | .ss => 0x36#8
  | .ds => 0x3E#8
  | .fs => 0x64#8
  | .gs => 0x65#8

/-- The byte of a legacy prefix (30_encoding.md R101). -/
def legacyByte : Legacy → Byte
  | .lock => 0xF0#8
  | .seg r => overrideByte r
  | .opsize => 0x66#8
  | .addrsize => 0x67#8

/-- The legacy prefix a byte is, if it is one a rotate may carry (30_encoding.md R101). -/
def legacyOf (b : Byte) : Option Legacy :=
  if b = 0xF0#8 then some .lock
  else if b = 0x26#8 then some (.seg .es)
  else if b = 0x2E#8 then some (.seg .cs)
  else if b = 0x36#8 then some (.seg .ss)
  else if b = 0x3E#8 then some (.seg .ds)
  else if b = 0x64#8 then some (.seg .fs)
  else if b = 0x65#8 then some (.seg .gs)
  else if b = 0x66#8 then some .opsize
  else if b = 0x67#8 then some .addrsize
  else none

/-- The prefix group of a legacy prefix (30_encoding.md R101). -/
def Legacy.group : Legacy → Nat
  | .lock => 1
  | .seg _ => 2
  | .opsize => 3
  | .addrsize => 4

/-- `F2` and `F3`, reserved with a rotate (30_encoding.md R101, R118). -/
def isRepeat (b : Byte) : Bool := b = 0xF2#8 || b = 0xF3#8

/-- A byte `40` to `4F`: in 64-bit mode a REX byte (30_encoding.md R103). -/
def isRexByte (b : Byte) : Bool := b.extractLsb' 4 4 = 4#4

/-- The REX byte `0100 W R X B` (30_encoding.md R103). -/
def rexByte (x : Rex) : Byte :=
  0b0100#4 ++ BitVec.ofBool x.w ++ BitVec.ofBool x.rxb.r ++ BitVec.ofBool x.rxb.x ++ BitVec.ofBool x.rxb.b

/-- The W, R, X, B bits of a REX byte (30_encoding.md R103). -/
def rexOf (b : Byte) : Rex :=
  ⟨b.getLsbD 3, ⟨b.getLsbD 2, b.getLsbD 1, b.getLsbD 0⟩⟩

/-- The opcode byte (30_encoding.md R104): `C0`/`C1` for an immediate count, `D0`/`D1` for 1,
`D2`/`D3` for `CL`; the odd one for the wide operand sizes. -/
def opcodeByte (c : Count) (w : Row) : Byte :=
  match c, w.size with
  | .imm _, .b8 => 0xC0#8
  | .imm _, _ => 0xC1#8
  | .one, .b8 => 0xD0#8
  | .one, _ => 0xD1#8
  | .cl, .b8 => 0xD2#8
  | .cl, _ => 0xD3#8

/-- The `/digit` of a mnemonic (30_encoding.md R106). -/
def RotOp.digit : RotOp → BitVec 3
  | .rol => 0
  | .ror => 1
  | .rcl => 2
  | .rcr => 3

/-- The mnemonic of a `/digit`; 4 to 7 have none (30_encoding.md R106). -/
def opOfDigit (g : BitVec 3) : Option RotOp :=
  if g = 0#3 then some .rol
  else if g = 1#3 then some .ror
  else if g = 2#3 then some .rcl
  else if g = 3#3 then some .rcr
  else none

/-- The `rm` bits of a 16-bit address (30_encoding.md R112). -/
def Base16.bits : Base16 → BitVec 3
  | .bxSi => 0
  | .bxDi => 1
  | .bpSi => 2
  | .bpDi => 3
  | .si => 4
  | .di => 5
  | .bp => 6
  | .bx => 7

/-- The 16-bit address an `rm` value names (30_encoding.md R112). -/
def base16Of (rm : BitVec 3) : Base16 :=
  if rm = 0#3 then .bxSi
  else if rm = 1#3 then .bxDi
  else if rm = 2#3 then .bpSi
  else if rm = 3#3 then .bpDi
  else if rm = 4#3 then .si
  else if rm = 5#3 then .di
  else if rm = 6#3 then .bp
  else .bx

/-- Two bytes of a 16-bit displacement, low byte first (30_encoding.md R113). -/
def bytes16 (d : BitVec 16) : List Byte := [d.extractLsb' 0 8, d.extractLsb' 8 8]

/-- Four bytes of a 32-bit displacement, low byte first (30_encoding.md R113). -/
def bytes32 (d : Word32) : List Byte :=
  [d.extractLsb' 0 8, d.extractLsb' 8 8, d.extractLsb' 16 8, d.extractLsb' 24 8]

/-- `mod` of a 16-bit displacement (30_encoding.md R112). -/
def Disp16.mod : Disp16 → BitVec 2
  | .none => 0
  | .d8 _ => 1
  | .d16 _ => 2

/-- `mod` of a 32-bit displacement (30_encoding.md R110). -/
def Disp32.mod : Disp32 → BitVec 2
  | .none => 0
  | .d8 _ => 1
  | .d32 _ => 2

/-- The bytes of a 16-bit address's displacement (30_encoding.md R113). -/
def Disp16.encode : Disp16 → List Byte
  | .none => []
  | .d8 d => [d]
  | .d16 d => bytes16 d

/-- The bytes of a 32- or 64-bit address's displacement (30_encoding.md R113). -/
def Disp32.encode : Disp32 → List Byte
  | .none => []
  | .d8 d => [d]
  | .d32 d => bytes32 d

/-- The ModRM byte: `mod`, `reg`, `rm` (30_encoding.md R105). -/
def modrmByte (mod : BitVec 2) (reg rm : BitVec 3) : Byte := mod ++ reg ++ rm

/-- The SIB byte: `scale`, `index`, `base` (30_encoding.md R111). -/
def sibByte (scale : BitVec 2) (index base : BitVec 3) : Byte := scale ++ index ++ base

/-- ModRM (with the `/digit` in its `reg` field), SIB and displacement of an operand
(30_encoding.md R109 to R113). -/
def encodeRm (g : BitVec 3) : Rm → List Byte
  | .reg rm => [modrmByte 3 g rm]
  | .mem16 b d => modrmByte d.mod g b.bits :: d.encode
  | .abs16 d => modrmByte 0 g 6 :: bytes16 d
  | .mem b d => modrmByte d.mod g b :: d.encode
  | .abs32 d => modrmByte 0 g 5 :: bytes32 d
  | .sib sc ix b d => modrmByte d.mod g 4 :: sibByte sc ix b :: d.encode
  | .sibAbs sc ix d => modrmByte 0 g 4 :: sibByte sc ix 5 :: bytes32 d

/-- The immediate byte, if the count is one (30_encoding.md R114). -/
def Count.encode : Count → List Byte
  | .imm ib => [ib]
  | _ => []

/-- The REX byte of a row, if it has one. -/
def Row.encode (w : Row) : List Byte := (w.rex.map rexByte).toList

/-- The bytes of a row's parts, in the order of 30_encoding.md R100. -/
def encodeRotate (v : Rotate) : List Byte :=
  v.pre.map legacyByte ++ v.row.encode ++ [opcodeByte v.count v.row] ++ encodeRm v.op.digit v.dst ++ v.count.encode

/-- The bytes of an instruction, lowest address first (30_encoding.md R100). -/
def encode (i : Instr) : List Byte := encodeRotate (view i)

/-! ## Sizes -/

/-- The default operand and address size is 16 bits (30_encoding.md R107, R108): `CS.D = 0` in
`Protected` and `Compat`, always in `Real` and `V86`, never in 64-bit mode. -/
def default16 (m : Mode) (csD : Bool) : Bool :=
  match m with
  | .real => true
  | .v86 => true
  | .prot => !csD
  | .compat => !csD
  | .long64 => false

/-- Operand size of the wide opcodes `C1`, `D1`, `D3` (30_encoding.md R107), `w` being REX.W: REX.W
wins over `66`; else the default, toggled by `66`. -/
def wideSize (m : Mode) (csD : Bool) (pre : List Legacy) (w : Bool) : OpSize :=
  if w then .b64
  else if default16 m csD = pre.contains .opsize then .b32
  else .b16

/-- Address size (30_encoding.md R108): 64 in 64-bit mode, or 32 with `67`; elsewhere the default,
toggled by `67`. -/
def addressSize (m : Mode) (csD : Bool) (pre : List Legacy) : AddrSize :=
  match m with
  | .long64 => if pre.contains .addrsize then .a32 else .a64
  | _ => if default16 m csD = pre.contains .addrsize then .a32 else .a16

/-! ## The decoder -/

/-- Why decoding stops without an instruction: the bytes run out, or they are refused. -/
inductive Stop where
  | short
  | reject (why : Reject)
  deriving DecidableEq, Repr

/-- One byte. -/
def takeByte : List Byte → Except Stop (Byte × List Byte)
  | [] => .error .short
  | b :: bs => .ok (b, bs)

/-- A 16-bit little-endian value (30_encoding.md R113). -/
def take16 : List Byte → Except Stop (BitVec 16 × List Byte)
  | a :: b :: bs => .ok (b ++ a, bs)
  | _ => .error .short

/-- A 32-bit little-endian value (30_encoding.md R113). -/
def take32 : List Byte → Except Stop (Word32 × List Byte)
  | a :: b :: c :: d :: bs => .ok (d ++ c ++ b ++ a, bs)
  | _ => .error .short

/-- The legacy prefixes (30_encoding.md R101), in order, at most one of each group (D13); `F2` and
`F3` are refused (R118). `seen` are those already read. -/
def decodeLegacy (seen : List Legacy) : List Byte → Except Stop (List Legacy × List Byte)
  | [] => .error .short
  | b :: bs =>
    match legacyOf b with
    | some p =>
      if seen.any (fun q => q.group = p.group) then .error (.reject .repeatedGroup)
      else decodeLegacy (seen ++ [p]) bs
    | none => if isRepeat b then .error (.reject .repeatByte) else .ok (seen, b :: bs)

/-- The REX byte (30_encoding.md R103): only in 64-bit mode, and directly before the opcode. -/
def decodeRex (m : Mode) : List Byte → Except Stop (Option Rex × List Byte)
  | [] => .error .short
  | b :: bs =>
    if isRexByte b then
      if m = .long64 then
        match bs with
        | [] => .error .short
        | c :: _ =>
          if (legacyOf c).isSome || isRepeat c || isRexByte c then .error (.reject .rexNotLast)
          else .ok (some (rexOf b), bs)
      else .error (.reject .rexOutsideLong64)
    else .ok (none, b :: bs)

/-- What an opcode byte says (30_encoding.md R104): whether the operand is wide, and the count, an
immediate count with its byte still to be read. -/
def opcodeOf (b : Byte) : Option (Bool × Count) :=
  if b = 0xC0#8 then some (false, .imm 0)
  else if b = 0xC1#8 then some (true, .imm 0)
  else if b = 0xD0#8 then some (false, .one)
  else if b = 0xD1#8 then some (true, .one)
  else if b = 0xD2#8 then some (false, .cl)
  else if b = 0xD3#8 then some (true, .cl)
  else none

/-- The row a REX byte and an operand size select (30_encoding.md R107, R122). -/
def rowOf (m : Mode) (csD : Bool) (pre : List Legacy) (rex : Option Rex) (wide : Bool) : Row :=
  match wide, rex with
  | false, none => .rm8
  | false, some x => .rm8x x
  | true, none => if wideSize m csD pre false = .b16 then .rm16 none else .rm32 none
  | true, some ⟨true, y⟩ => .rm64 y
  | true, some ⟨false, y⟩ =>
    if wideSize m csD pre false = .b16 then .rm16 (some y) else .rm32 (some y)

/-- A displacement of `mod` 0, 1 or 2 with 16-bit addressing (30_encoding.md R112). -/
def decodeDisp16 (mod : BitVec 2) (bs : List Byte) : Except Stop (Disp16 × List Byte) :=
  if mod = 0#2 then .ok (.none, bs)
  else if mod = 1#2 then do
    let (d, bs) ← takeByte bs
    .ok (.d8 d, bs)
  else do
    let (d, bs) ← take16 bs
    .ok (.d16 d, bs)

/-- A displacement of `mod` 0, 1 or 2 with 32- or 64-bit addressing (30_encoding.md R110). -/
def decodeDisp32 (mod : BitVec 2) (bs : List Byte) : Except Stop (Disp32 × List Byte) :=
  if mod = 0#2 then .ok (.none, bs)
  else if mod = 1#2 then do
    let (d, bs) ← takeByte bs
    .ok (.d8 d, bs)
  else do
    let (d, bs) ← take32 bs
    .ok (.d32 d, bs)

/-- The operand of 16-bit addressing, `mod` not 3 (30_encoding.md R112). -/
def decodeMem16 (mod : BitVec 2) (rm : BitVec 3) (bs : List Byte) : Except Stop (Rm × List Byte) :=
  if mod = 0#2 ∧ rm = 6#3 then do
    let (d, bs) ← take16 bs
    .ok (.abs16 d, bs)
  else do
    let (d, bs) ← decodeDisp16 mod bs
    .ok (.mem16 (base16Of rm) d, bs)

/-- The operand of 32- or 64-bit addressing, `mod` not 3 (30_encoding.md R110, R111). -/
def decodeMem32 (mod : BitVec 2) (rm : BitVec 3) (bs : List Byte) : Except Stop (Rm × List Byte) :=
  if rm = 4#3 then do
    let (b, bs) ← takeByte bs
    let sc := b.extractLsb' 6 2
    let ix := b.extractLsb' 3 3
    let base := b.extractLsb' 0 3
    if mod = 0#2 ∧ base = 5#3 then do
      let (d, bs) ← take32 bs
      .ok (.sibAbs sc ix d, bs)
    else do
      let (d, bs) ← decodeDisp32 mod bs
      .ok (.sib sc ix base d, bs)
  else if mod = 0#2 ∧ rm = 5#3 then do
    let (d, bs) ← take32 bs
    .ok (.abs32 d, bs)
  else do
    let (d, bs) ← decodeDisp32 mod bs
    .ok (.mem rm d, bs)

/-- Operand 1 from `mod` and `rm` and the bytes after ModRM (30_encoding.md R109 to R113). -/
def decodeRm (a : AddrSize) (mod : BitVec 2) (rm : BitVec 3) (bs : List Byte) :
    Except Stop (Rm × List Byte) :=
  if mod = 3#2 then .ok (.reg rm, bs)
  else if a = .a16 then decodeMem16 mod rm bs
  else decodeMem32 mod rm bs

/-- The immediate byte of an immediate count (30_encoding.md R114). -/
def decodeCount (c : Count) (bs : List Byte) : Except Stop (Count × List Byte) :=
  match c with
  | .imm _ => do
    let (ib, bs) ← takeByte bs
    .ok (.imm ib, bs)
  | c => .ok (c, bs)

/-- The parts of one instruction from the front of a byte list, in the order of 30_encoding.md R100,
and the bytes that are left. Everything that is not one of the 60 rows is refused (R118). -/
def decodeRotate (m : Mode) (csD : Bool) (bs : List Byte) : Except Stop (Rotate × List Byte) := do
  let (pre, bs) ← decodeLegacy [] bs
  let (rex, bs) ← decodeRex m bs
  let (op, bs) ← takeByte bs
  match opcodeOf op with
  | none => .error (.reject (.otherOpcode op))
  | some (wide, c) => do
    let (mr, bs) ← takeByte bs
    match opOfDigit (mr.extractLsb' 3 3) with
    | none => .error (.reject (.shiftGroup (mr.extractLsb' 3 3)))
    | some o => do
      let (dst, bs) ← decodeRm (addressSize m csD pre) (mr.extractLsb' 6 2) (mr.extractLsb' 0 3) bs
      let (c, bs) ← decodeCount c bs
      .ok (⟨o, c, rowOf m csD pre rex wide, pre, dst⟩, bs)

/-- One instruction from the front of a byte list in a mode and a code-segment size, and the bytes
that are left (30_encoding.md R100 to R118). -/
def decode (m : Mode) (csD : Bool) (bs : List Byte) : Except Stop (Instr × List Byte) :=
  match decodeRotate m csD bs with
  | .ok (v, rest) => .ok (ofView v, rest)
  | .error e => .error e

/-! ## The opcode table's numbering -/

/-- Bytes of the operand that follow the two bytes the table numbers: table bits 16 and up, eight at
a time, low byte first. -/
def operandBytes (w : Nat) : Nat → List Byte
  | 0 => []
  | n + 1 => BitVec.ofNat 8 w :: operandBytes (w / 256) n

/-- The longest instruction in bytes, the size of the fetch window (30_encoding.md R116). -/
def maxLength : Nat := 15

/-- The byte string of a table word, filled with zeros to the longest instruction. The table numbers
`(opcode << 8) | modrm` (30_encoding.md R122), so the opcode byte, stored first, is bits 15:8 and
ModRM, stored next, is bits 7:0; bits from `nbits` up are 0 (assumption log 1). -/
def tableBytes (nbits w : Nat) : List Byte :=
  let v := w % 2 ^ nbits
  BitVec.ofNat 8 (v / 256) :: BitVec.ofNat 8 v :: operandBytes (v / 65536) (maxLength - 2)

/-- The instruction the decoder reads from a table word, in the mode the machine is in after reset
(`Real`, 16-bit code; assumption log 1). -/
def decodeTableWord (nbits w : Nat) : Option Instr :=
  match decode .real false (tableBytes nbits w) with
  | .ok (i, _) => some i
  | .error _ => none

end Sys2Proof
end

