-- ==== Sys2Proof/Machine/Ops.lean ====
section
/-! DEFINITION. The named operations over the state: modes and privilege, registers, memory, segments,
the linear address, translation, the checks of a memory operand, instruction fetch, and taking an
exception (spec/10_state.md, spec/20_memory.md, spec/60_exceptions.md). -/

namespace Sys2Proof.Machine

/-! ## Modes, privilege, the instruction pointer -/

/-- `Mode` (10_state.md R33), from CR0.PE, RFLAGS.VM, IA32_EFER.LMA and CS.L. DESIGN CHOICE (assumption log
35): with PE = 0 and LMA = 1 two rows of the rule's table hold, and the model is in `Real`. -/
def State.mode (s : State) : Mode :=
  if s.cr0.getLsbD 0 then
    if s.efer.getLsbD 10 then
      if s.csL then .long64 else .compat
    else if s.flags.vm then .v86 else .prot
  else .real

/-- `CPL` (10_state.md R33, 60_exceptions.md R330): 0 in `Real`, 3 in `V86`, else the low two bits of
the CS selector. -/
def State.cpl (s : State) : BitVec 2 :=
  match s.mode with
  | .real => 0
  | .v86 => 3
  | .prot => s.cs.selector.extractLsb' 0 2
  | .compat => s.cs.selector.extractLsb' 0 2
  | .long64 => s.cs.selector.extractLsb' 0 2

/-- Paging is on: CR0.PG, bit 31, never in `Real` (20_memory.md R67, 60_exceptions.md R304; assumption
log 11). -/
def State.paging (s : State) : Bool := s.mode ≠ .real && s.cr0.getLsbD 31

/-- "Alignment checking is enabled" at CPL 3 (10_state.md R33, 20_memory.md R68): CR0.AM, bit 18, and
RFLAGS.AC; not in `Real`. -/
def State.alignmentOn (s : State) : Bool :=
  s.mode ≠ .real && s.cr0.getLsbD 18 && s.flags.ac && s.cpl = 3#2

/-- A linear or instruction address at the width the mode has (10_state.md R26, 20_memory.md R63): 64
bits in `Long64`, the low 32 elsewhere. -/
def State.narrow (s : State) (a : Word64) : Word64 :=
  if s.mode = .long64 then a else (a.setWidth 32).setWidth 64

/-- The instruction pointer the program sees: `RIP` in `Long64`, `EIP` elsewhere (10_state.md R26). -/
def State.ip (s : State) : Word64 := s.narrow s.rip

/-- `RIP_next` (10_state.md R26): the address after an instruction of `length` bytes, modulo `2^64` in
`Long64` and `2^32` elsewhere. -/
def State.ripNext (s : State) (length : Nat) : Word64 := s.narrow (s.rip + BitVec.ofNat 64 length)

/-! ## General registers -/

/-- A general register's 64 bits (10_state.md R21). -/
def GReg.word (g : GReg) : Word64 := g.hi ++ g.lo

/-- The view of a register at a width (10_state.md R22). -/
def GReg.view (g : GReg) (n : OpSize) : BitVec n.bits :=
  match n with
  | .b8 => g.lo.setWidth 8
  | .b16 => g.lo.setWidth 16
  | .b32 => g.lo
  | .b64 => g.word

/-- The high byte register, bits 15:8 (10_state.md R22). -/
def GReg.highByte (g : GReg) : Byte := g.lo.extractLsb' 8 8

/-- A write through a view (10_state.md R23): 8 and 16 bits keep the rest; 32 bits give `upper` to bits
63:32. -/
def GReg.put (g : GReg) (upper : Word32) (n : OpSize) (v : BitVec n.bits) : GReg :=
  match n, v with
  | .b8, v => ⟨g.hi, g.lo.extractLsb' 8 24 ++ v⟩
  | .b16, v => ⟨g.hi, g.lo.extractLsb' 16 16 ++ v⟩
  | .b32, v => ⟨upper, v⟩
  | .b64, v => ⟨v.extractLsb' 32 32, v.extractLsb' 0 32⟩

/-- A write of the high byte register (10_state.md R23). -/
def GReg.putHigh (g : GReg) (v : Byte) : GReg :=
  ⟨g.hi, g.lo.extractLsb' 16 16 ++ v ++ g.lo.extractLsb' 0 8⟩

/-- The register of a number (10_state.md R21). -/
def State.greg (s : State) (r : BitVec 4) : GReg := s.regs[r.toNat]'r.isLt

/-- The state with a register replaced. -/
def State.setGreg (s : State) (r : BitVec 4) (g : GReg) : State :=
  { s with regs := s.regs.set r.toNat g r.isLt }

/-- Bits 63:32 after a 32-bit write (10_state.md R23): zero in `Long64`, a free value elsewhere
(assumption log 7). -/
def State.upperHalf (s : State) : Word32 :=
  if s.mode = .long64 then 0 else Config.drawHigh s.drawIndex

/-- A register seen at the address size, zero-extended (`reg_A` of 30_encoding.md R110). -/
def State.addressReg (s : State) (a : AddrSize) (r : BitVec 4) : Word64 :=
  match a with
  | .a16 => ((s.greg r).view .b16).setWidth 64
  | .a32 => ((s.greg r).view .b32).setWidth 64
  | .a64 => (s.greg r).view .b64

/-- `CL`, the low byte of register 1, with or without REX (10_state.md R22, R24). -/
def State.cl (s : State) : Byte := (s.greg 1).view .b8

/-! ## Memory -/

/-- The byte at a physical address; an unlisted byte reads as 0 (10_state.md R34; assumption log 5). -/
def Memory.read : List Host.Cell → Word64 → Byte
  | [], _ => 0
  | c :: m, a => if c.1 = a.toNat then c.2 else Memory.read m a

/-- The list with a byte that is not 0 in its place. -/
def Memory.insert : List Host.Cell → Word64 → Byte → List Host.Cell
  | [], a, v => [(a.toNat, v)]
  | c :: m, a, v =>
    if c.1 < a.toNat then c :: Memory.insert m a v
    else if c.1 = a.toNat then (a.toNat, v) :: m
    else (a.toNat, v) :: c :: m

/-- The memory with one byte written (20_memory.md R71, R72); writing 0 removes the entry. -/
def Memory.write (m : List Host.Cell) (a : Word64) (v : Byte) : List Host.Cell :=
  if v = 0 then m.filter (fun c => c.1 ≠ a.toNat) else Memory.insert m a v

/-- The canonical form: addresses rising and below `2^64`, and no byte listed that an unlisted one would
read as. -/
abbrev Memory.wf (m : List Host.Cell) : Prop :=
  m.Pairwise (fun c d => c.1 < d.1) ∧ ∀ c ∈ m, c.1 < 2 ^ 64 ∧ c.2 ≠ 0

/-- The bytes at a list of physical addresses. -/
def Memory.readAll (m : List Host.Cell) (as : List Word64) : List Byte := as.map (Memory.read m)

/-- Bytes written at a list of physical addresses, the first first (assumption log 14). -/
def Memory.writeAll (m : List Host.Cell) : List Word64 → List Byte → List Host.Cell
  | a :: as, v :: vs => Memory.writeAll (Memory.write m a v) as vs
  | [], _ => m
  | _, [] => m

/-- The little-endian value of a list of bytes (20_memory.md R61). -/
def littleEndian : List Byte → Nat
  | [] => 0
  | b :: bs => b.toNat + 256 * littleEndian bs

/-- The bytes of an `n`-bit value, the low byte first (20_memory.md R61). -/
def bytesOf (n : OpSize) (v : BitVec n.bits) : List Byte :=
  (List.range n.bytes).map (fun j => v.extractLsb' (8 * j) 8)

/-! ## Segments and linear addresses -/

/-- The segment register of a name (10_state.md R32). -/
def State.seg (s : State) (r : SegReg) : Seg :=
  match r with
  | .es => s.es
  | .cs => s.cs
  | .ss => s.ss
  | .ds => s.ds
  | .fs => s.fs
  | .gs => s.gs

/-- `null` (10_state.md R32): index and table-indicator bits are zero, selectors 0 to 3 (00_scope.md
R9). -/
def Seg.null (g : Seg) : Bool := g.selector.extractLsb' 2 14 = 0#14

/-- An offset is inside the segment limit. -/
def Seg.covers (g : Seg) (offset : Nat) : Bool :=
  g.offsets.any (fun r => r.first ≤ offset && offset ≤ r.last)

/-- `InLimit(ea, k)` for address size `A` (10_state.md R32, 20_memory.md R63): every byte is inside the
limit, and none lies beyond offset `2^A - 1`. -/
def Seg.inLimit (g : Seg) (a : AddrSize) (ea k : Nat) : Bool :=
  ea + k ≤ 2 ^ a.bits && (List.range k).all (fun j => g.covers (ea + j))

/-- `writable` as the checks read it (10_state.md R32): a code segment never is in `Protected` and
`Compat` (20_memory.md R64; assumption log 16). -/
def State.segWritable (s : State) (r : SegReg) : Bool :=
  match s.mode, r with
  | .prot, .cs => false
  | .compat, .cs => false
  | _, r => (s.seg r).writable

/-- The base the linear address takes (20_memory.md R63): 0 for ES, CS, SS and DS in `Long64`. -/
def State.segBase (s : State) (r : SegReg) : Word64 :=
  match s.mode, r with
  | .long64, .fs => s.fs.base
  | .long64, .gs => s.gs.base
  | .long64, _ => 0
  | _, r => (s.seg r).base

/-- The linear address of byte `j` of an operand at `ea` (20_memory.md R63). -/
def State.linear (s : State) (r : SegReg) (ea : Word64) (j : Nat) : Word64 :=
  s.narrow (s.segBase r + ea + BitVec.ofNat 64 j)

/-- Canonical form (20_memory.md R69). -/
def canonical (v : VaBits) (la : Word64) : Bool := (la.setWidth v.width).signExtend 64 = la

/-! ## Translation -/

/-- The rule is for this address, access and privilege level. -/
def PageRule.applies (p : PageRule) (la : Word64) (acc : Access) (cpl : BitVec 2) : Bool :=
  p.first.ule la && la.ule p.last && (p.access = none || p.access = some acc)
    && (p.cpl = none || p.cpl = some cpl)

/-- `Translate(la, access, CPL)` (20_memory.md R67): the identity with paging off; else what the first
rule that applies says, and the identity where none does (assumption log 11). -/
def State.translate (s : State) (la : Word64) (acc : Access) : PageResult :=
  if s.paging then
    match s.translation.find? (fun p => p.applies la acc s.cpl) with
    | none => .ok la
    | some p =>
      match p.result with
      | .ok pa => .ok (pa + (la - p.first))
      | .pageFault code => .pageFault code
  else .ok la

/-! ## Exceptions -/

/-- The exceptions of 60_exceptions.md R300; a page fault with its code and linear address (R304). -/
inductive Exn where
  | ud
  | ss
  | gp
  | pf (code : Word32) (address : Word64)
  | ac
  deriving DecidableEq, Repr

/-- The error code of `#GP` and `#SS` (60_exceptions.md R313): none in `Real`, else 0. -/
def State.errorCode (s : State) : Option Word32 := if s.mode = .real then none else some 0

/-- TAKING AN EXCEPTION (60_exceptions.md R311, R312): the run ends with the outcome of the exception
and the address of the faulting instruction, before anything is changed. -/
def raise (e : Exn) (s : State) : Result :=
  match e with
  | .ud => .fault (.ud s.ip)
  | .ss => .fault (.ss s.errorCode s.ip)
  | .gp => .fault (.gp s.errorCode s.ip)
  | .pf code address => .fault (.pf code address s.ip)
  | .ac => .fault (.ac s.ip)

/-- The `Fault` record of 60_exceptions.md R312. -/
structure FaultRecord where
  vector : Nat
  mnemonic : String
  errorCode : Option Word32
  faultAddress : Option Word64
  rip : Word64
  deriving DecidableEq, Repr

/-- The record of a fault: the vectors of 60_exceptions.md R300, the error codes of R313, the address
of R304. -/
def faultRecord : Fault → FaultRecord
  | .ud rip => ⟨6, "#UD", none, none, rip⟩
  | .ss code rip => ⟨12, "#SS", code, none, rip⟩
  | .gp code rip => ⟨13, "#GP", code, none, rip⟩
  | .pf code address rip => ⟨14, "#PF", some code, some address, rip⟩
  | .ac rip => ⟨17, "#AC", some 0, none, rip⟩

/-! ## The checks of a memory operand -/

/-- DS, ES, FS and GS, the registers of the null-selector condition (20_memory.md R64 (a)). -/
def isDataSegment : SegReg → Bool
  | .es => true
  | .cs => false
  | .ss => false
  | .ds => true
  | .fs => true
  | .gs => true

/-- The exception of a limit or canonical-form violation (20_memory.md R64 to R66). -/
def limitExn : SegReg → Exn
  | .es => .gp
  | .cs => .gp
  | .ss => .ss
  | .ds => .gp
  | .fs => .gp
  | .gs => .gp

/-- The linear addresses of the `k` bytes of an operand, lowest offset first (20_memory.md R63). -/
def State.linears (s : State) (r : SegReg) (ea : Word64) (k : Nat) : List Word64 :=
  (List.range k).map (s.linear r ea)

/-- The segment-level checks of a rotate's memory operand (20_memory.md R64, R65, R66), `none` when all
pass. -/
def State.segmentExn (s : State) (r : SegReg) (a : AddrSize) (ea : Word64) (k : Nat) : Option Exn :=
  match s.mode with
  | .real => if (s.seg r).inLimit a ea.toNat k then none else some (limitExn r)
  | .v86 => if (s.seg r).inLimit a ea.toNat k then none else some (limitExn r)
  | .prot => protectedExn
  | .compat => protectedExn
  | .long64 =>
    if (s.linears r ea k).all (canonical s.vaBits) then
      if s.segWritable r then none else some .gp
    else some (limitExn r)
where
  /-- 20_memory.md R64. -/
  protectedExn : Option Exn :=
    if isDataSegment r && (s.seg r).null then some .gp
    else if !s.segWritable r then some .gp
    else if (s.seg r).inLimit a ea.toNat k then none
    else some (limitExn r)

/-- The alignment condition (20_memory.md R68, 60_exceptions.md R316), `la` being the linear address of
byte 0. -/
def State.misaligned (s : State) (la : Word64) (k : Nat) : Bool :=
  s.alignmentOn && decide (1 < k) && decide (la.toNat % k ≠ 0)

/-- The page faults of the bytes, as linear address and code. -/
def State.pageFaults (s : State) (acc : Access) : List Word64 → List (Word64 × Word32)
  | [] => []
  | la :: las =>
    match s.translate la acc with
    | .ok _ => s.pageFaults acc las
    | .pageFault code => (la, code) :: s.pageFaults acc las

/-- The fault at the lowest linear address (20_memory.md R67, 60_exceptions.md R304; assumption log
33). -/
def lowestFault : List (Word64 × Word32) → Option (Word64 × Word32)
  | [] => none
  | f :: fs =>
    match lowestFault fs with
    | none => some f
    | some g => if g.1.ult f.1 then some g else some f

/-- The physical addresses of bytes that all translate. -/
def State.physicals (s : State) (acc : Access) : List Word64 → List Word64
  | [] => []
  | la :: las =>
    match s.translate la acc with
    | .ok pa => pa :: s.physicals acc las
    | .pageFault _ => s.physicals acc las

/-- The alignment and page checks of an operand (20_memory.md R67, R68); which is reported when both
fail is open (60_exceptions.md R310), a free value (assumption log 8). -/
def State.accessExn (s : State) (las : List Word64) (la : Word64) (k : Nat) : Option Exn :=
  match s.misaligned la k, lowestFault (s.pageFaults .write las) with
  | false, none => none
  | true, none => some .ac
  | false, some f => some (.pf f.2 f.1)
  | true, some f => if Config.acBeforePf s.drawIndex la then some .ac else some (.pf f.2 f.1)

/-- The physical addresses of the `k` bytes of a rotate's memory operand, after every check of the read
and of the write (20_memory.md R62, R70), or the exception. -/
def State.operandBytes (s : State) (r : SegReg) (a : AddrSize) (ea : Word64) (k : Nat) :
    Except Exn (List Word64) :=
  match s.segmentExn r a ea k with
  | some e => .error e
  | none =>
    match s.accessExn (s.linears r ea k) (s.linear r ea 0) k with
    | some e => .error e
    | none => .ok (s.physicals .write (s.linears r ea k))

/-! ## Instruction fetch -/

/-- The physical address of the instruction byte `j` after the instruction pointer (20_memory.md R76):
inside the CS limit outside `Long64`, canonical in `Long64`, and translated for execution. -/
def State.fetchAddress (s : State) (j : Nat) : Except Exn Word64 :=
  let la := s.linear .cs s.ip j
  let allowed := if s.mode = .long64 then canonical s.vaBits la else s.cs.inLimit .a32 (s.ip.toNat + j) 1
  if allowed then
    match s.translate la .execute with
    | .ok pa => .ok pa
    | .pageFault code => .error (.pf code la)
  else .error .gp

/-- Up to `n` instruction bytes from byte `j` on, and the exception that ended them, if one did. -/
def State.fetchFrom (s : State) (j : Nat) : Nat → List Byte × Option Exn
  | 0 => ([], none)
  | n + 1 =>
    match s.fetchAddress j with
    | .error e => ([], some e)
    | .ok pa => (Memory.read s.mem pa :: (s.fetchFrom (j + 1) n).1, (s.fetchFrom (j + 1) n).2)

/-- The bytes an instruction at the instruction pointer can have, from the current memory (20_memory.md
R74, R76; assumption log 23, 34). -/
def State.fetchWindow (s : State) : List Byte × Option Exn := s.fetchFrom 0 maxLength

/-- The memory with bytes placed where they are fetched from, as far as they can be. -/
def State.placeCode (s : State) (j : Nat) (m : List Host.Cell) : List Byte → List Host.Cell
  | [] => m
  | b :: bs =>
    match s.fetchAddress j with
    | .error _ => m
    | .ok pa => s.placeCode (j + 1) (Memory.write m pa b) bs

end Sys2Proof.Machine
end

