-- ==== Sys2Proof/Machine/Operands.lean ====
section
/-! DEFINITION. The operands of a rotate: the count, the effective address and segment of a memory
operand, the register an operand names, and reading and writing the destination
(spec/30_encoding.md R109 to R115, spec/40_rotate_common.md R161, R165, spec/10_state.md R24). -/

namespace Sys2Proof.Machine

/-- `COUNT` (40_rotate_common.md R161): 1, `CL`, or the immediate, unsigned. -/
def countValue (c : Count) (s : State) : Byte :=
  match c with
  | .one => 1
  | .cl => s.cl
  | .imm ib => ib

/-- The length of an instruction in bytes (30_encoding.md R116). -/
def lengthOf (v : Rotate) : Nat := (encodeRotate v).length

/-! ## Effective address -/

/-- A sum reduced modulo `2^A` and zero-extended (30_encoding.md R110, 20_memory.md R63). -/
def wrapAddress (a : AddrSize) (x : Word64) : Word64 := (x.setWidth a.bits).setWidth 64

/-- The sign-extended displacement of a 16-bit address, 0 if there is none (30_encoding.md R112). -/
def disp16Value : Disp16 → Word64
  | .none => 0
  | .d8 d => d.signExtend 64
  | .d16 d => d.signExtend 64

/-- The sign-extended displacement of a 32- or 64-bit address, 0 if there is none (30_encoding.md
R110). -/
def disp32Value : Disp32 → Word64
  | .none => 0
  | .d8 d => d.signExtend 64
  | .d32 d => d.signExtend 64

/-- The registers of a 16-bit address (30_encoding.md R112): BX, BP, SI, DI are registers 3, 5, 6, 7. -/
def State.base16 (s : State) : Base16 → Word64
  | .bxSi => s.addressReg .a16 3 + s.addressReg .a16 6
  | .bxDi => s.addressReg .a16 3 + s.addressReg .a16 7
  | .bpSi => s.addressReg .a16 5 + s.addressReg .a16 6
  | .bpDi => s.addressReg .a16 5 + s.addressReg .a16 7
  | .si => s.addressReg .a16 6
  | .di => s.addressReg .a16 7
  | .bp => s.addressReg .a16 5
  | .bx => s.addressReg .a16 3

/-- The number of a register whose three low bits the encoding gives (30_encoding.md R103). -/
def regNumber (high : Bool) (low : BitVec 3) : BitVec 4 := BitVec.ofBool high ++ low

/-- The index part of a SIB address (30_encoding.md R111): none for number 4, else the register times
`2^scale`. -/
def State.indexPart (s : State) (a : AddrSize) (w : Row) (scale : BitVec 2) (index : BitVec 3) : Word64 :=
  if regNumber w.rexX index = 4#4 then 0
  else s.addressReg a (regNumber w.rexX index) <<< scale.toNat

/-- The effective address of a memory operand (30_encoding.md R110 to R112), reduced modulo `2^A` and
zero-extended; `next` is `RIP_next`, the base of `abs32` in 64-bit mode. 0 for a register. -/
def effectiveAddress (s : State) (a : AddrSize) (w : Row) (next : Word64) : Rm → Word64
  | .reg _ => 0
  | .mem16 b d => wrapAddress .a16 (s.base16 b + disp16Value d)
  | .abs16 d => d.setWidth 64
  | .mem b d => wrapAddress a (s.addressReg a (regNumber w.rexB b) + disp32Value d)
  | .abs32 d => wrapAddress a ((if s.mode = .long64 then next else 0) + d.signExtend 64)
  | .sib sc ix b d =>
    wrapAddress a (s.addressReg a (regNumber w.rexB b) + s.indexPart a w sc ix + disp32Value d)
  | .sibAbs sc ix d => wrapAddress a (d.signExtend 64 + s.indexPart a w sc ix)

/-! ## Segment -/

/-- The default segment (30_encoding.md R110, R111, R112): SS for a base BP, ESP/RSP or EBP/RBP, else
DS. -/
def defaultSegment (w : Row) : Rm → SegReg
  | .reg _ => .ds
  | .mem16 .bxSi _ => .ds
  | .mem16 .bxDi _ => .ds
  | .mem16 .bpSi _ => .ss
  | .mem16 .bpDi _ => .ss
  | .mem16 .si _ => .ds
  | .mem16 .di _ => .ds
  | .mem16 .bp _ => .ss
  | .mem16 .bx _ => .ds
  | .abs16 _ => .ds
  | .mem b _ => if regNumber w.rexB b = 5#4 then .ss else .ds
  | .abs32 _ => .ds
  | .sib _ _ b _ => if regNumber w.rexB b = 4#4 ∨ regNumber w.rexB b = 5#4 then .ss else .ds
  | .sibAbs _ _ _ => .ds

/-- The segment override among the legacy prefixes (30_encoding.md R101). -/
def overrideOf : List Legacy → Option SegReg
  | [] => none
  | .seg r :: _ => some r
  | .lock :: ps => overrideOf ps
  | .opsize :: ps => overrideOf ps
  | .addrsize :: ps => overrideOf ps

/-- An override the mode honours (30_encoding.md R115): in `Long64` only FS and GS. -/
def honoured (m : Mode) (r : SegReg) : Bool := m ≠ .long64 || r = .fs || r = .gs

/-- The segment of a memory operand (30_encoding.md R115). -/
def segmentOf (m : Mode) (v : Rotate) : SegReg :=
  match overrideOf v.pre with
  | some r => if honoured m r then r else defaultSegment v.row v.dst
  | none => defaultSegment v.row v.dst

/-! ## The destination -/

/-- Where a destination is: the low view of a register, a high byte register, or bytes of memory by
physical address, the low byte first. -/
inductive Place where
  | low (r : BitVec 4)
  | high (r : BitVec 4)
  | mem (addresses : List Word64)
  deriving DecidableEq, Repr

/-- The register a register operand names (30_encoding.md R109, 10_state.md R24): without REX the byte
registers 4 to 7 are the high bytes of registers 0 to 3. -/
def registerPlace (w : Row) (rm : BitVec 3) : Place :=
  match w with
  | .rm8 => if rm.getLsbD 2 then .high (regNumber false (rm &&& 3#3)) else .low (regNumber false rm)
  | .rm8x x => .low (regNumber x.rxb.b rm)
  | .rm16 y => .low (regNumber (Row.rm16 y).rexB rm)
  | .rm32 y => .low (regNumber (Row.rm32 y).rexB rm)
  | .rm64 y => .low (regNumber y.b rm)

/-- The address size in force for an instruction in this state (30_encoding.md R108). -/
def State.addressSize (s : State) (v : Rotate) : AddrSize := Sys2Proof.addressSize s.mode s.csD v.pre

/-- The physical addresses of the memory operand of an instruction, or the exception (20_memory.md
R62, R70). -/
def memoryOperand (v : Rotate) (s : State) : Except Exn (List Word64) :=
  s.operandBytes (segmentOf s.mode v) (s.addressSize v)
    (effectiveAddress s (s.addressSize v) v.row (s.ripNext (lengthOf v)) v.dst) v.row.size.bytes

/-- The destination of an instruction, or the exception of its memory operand (40_rotate_common.md
R160, step 4). -/
def destination (v : Rotate) (s : State) : Except Exn Place :=
  match v.dst with
  | .reg rm => .ok (registerPlace v.row rm)
  | _ =>
    match memoryOperand v s with
    | .ok as => .ok (.mem as)
    | .error e => .error e

/-- The value of a destination (40_rotate_common.md R165). -/
def readPlace (s : State) (n : OpSize) : Place → BitVec n.bits
  | .low r => (s.greg r).view n
  | .high r => (s.greg r).highByte.setWidth n.bits
  | .mem as => BitVec.ofNat n.bits (littleEndian (Memory.readAll s.mem as))

/-- The state with a destination written (40_rotate_common.md R165). -/
def writePlace (s : State) (n : OpSize) (v : BitVec n.bits) : Place → State
  | .low r => s.setGreg r ((s.greg r).put s.upperHalf n v)
  | .high r => s.setGreg r ((s.greg r).putHigh (v.setWidth 8))
  | .mem as => { s with mem := Memory.writeAll s.mem as (bytesOf n v) }

end Sys2Proof.Machine
end

