-- ==== Sys2Proof/Machine/Rotate.lean ====
section
/-! DEFINITION. The four rotate functions (spec/41_rcl.md R200, spec/42_rcr.md R220, spec/43_rol.md
R240, spec/44_ror.md R260) and the steps the four mnemonics share (spec/40_rotate_common.md R160). -/

namespace Sys2Proof.Machine

/-- What a rotate function returns: `res`, `cf_new`, `of_new`. -/
structure Rotated (n : Nat) where
  res : BitVec n
  cf : Bool
  of : Bool
  deriving DecidableEq, Repr

/-- `t` turns of the RCL loop (41_rcl.md R200): the carry enters at the bottom, the top bit becomes the
carry. -/
def rclLoop {n : Nat} : Nat → BitVec n → Bool → BitVec n × Bool
  | 0, d, c => (d, c)
  | t + 1, d, c => rclLoop t ((d ++ BitVec.ofBool c).setWidth n) d.msb

/-- `t` turns of the RCR loop (42_rcr.md R220): the carry enters at the top, the bottom bit becomes the
carry. -/
def rcrLoop {n : Nat} : Nat → BitVec n → Bool → BitVec n × Bool
  | 0, d, c => (d, c)
  | t + 1, d, c => rcrLoop t ((BitVec.ofBool c ++ d).extractLsb' 1 n) (d.getLsbD 0)

/-- `t` turns of the ROL loop (43_rol.md R240): the top bit enters at the bottom. -/
def rolLoop {n : Nat} : Nat → BitVec n → BitVec n
  | 0, d => d
  | t + 1, d => rolLoop t ((d ++ BitVec.ofBool d.msb).setWidth n)

/-- `t` turns of the ROR loop (44_ror.md R260): the bottom bit enters at the top. -/
def rorLoop {n : Nat} : Nat → BitVec n → BitVec n
  | 0, d => d
  | t + 1, d => rorLoop t ((BitVec.ofBool (d.getLsbD 0) ++ d).extractLsb' 1 n)

/-- `RCL(d, c, m, n)` (41_rcl.md R200). -/
def rcl (n : OpSize) (d : BitVec n.bits) (c : Bool) (m : Nat) : Rotated n.bits :=
  let r := rclLoop (rotateAmount .rcl n m) d c
  ⟨r.1, r.2, r.1.msb ^^ r.2⟩

/-- `RCR(d, c, m, n)` (42_rcr.md R220); `of_new` comes from the old values. -/
def rcr (n : OpSize) (d : BitVec n.bits) (c : Bool) (m : Nat) : Rotated n.bits :=
  let r := rcrLoop (rotateAmount .rcr n m) d c
  ⟨r.1, r.2, d.msb ^^ c⟩

/-- `ROL(d, c, m, n)` (43_rol.md R240). -/
def rol (n : OpSize) (d : BitVec n.bits) (c : Bool) (m : Nat) : Rotated n.bits :=
  let r := rolLoop (rotateAmount .rol n m) d
  let cf := if m = 0 then c else r.getLsbD 0
  ⟨r, cf, r.msb ^^ cf⟩

/-- `ROR(d, c, m, n)` (44_ror.md R260). -/
def ror (n : OpSize) (d : BitVec n.bits) (c : Bool) (m : Nat) : Rotated n.bits :=
  let r := rorLoop (rotateAmount .ror n m) d
  ⟨r, if m = 0 then c else r.msb, r.msb ^^ r.getLsbD (n.bits - 2)⟩

/-- The rotate function of a mnemonic (40_rotate_common.md R160, step 5). -/
def rotateFunction (op : RotOp) (n : OpSize) (d : BitVec n.bits) (c : Bool) (m : Nat) : Rotated n.bits :=
  match op with
  | .rol => rol n d c m
  | .ror => ror n d c m
  | .rcl => rcl n d c m
  | .rcr => rcr n d c m

/-- The masked count of an instruction in this state (40_rotate_common.md R160, step 3). -/
def maskedCountOf (v : Rotate) (s : State) : Nat := maskedCount v.row.size (countValue v.count s)

/-- The result of an instruction whose destination is `p` (40_rotate_common.md R160, step 5). -/
def resultAt (v : Rotate) (p : Place) (s : State) : Rotated v.row.size.bits :=
  rotateFunction v.op v.row.size (readPlace s v.row.size p) s.flags.cf (maskedCountOf v s)

/-- The state after an instruction whose destination is `p` (40_rotate_common.md R160, steps 6 to 8):
destination, flags, `RIP_next`; and the model's own counter goes on by 1. -/
def finish (v : Rotate) (p : Place) (s : State) : State :=
  { writePlace s v.row.size (resultAt v p s).res p with
    flags := rotateFlags s.flags (maskedCountOf v s) (resultAt v p s).cf (resultAt v p s).of
      (Config.drawOf s.drawIndex)
    rip := s.ripNext (lengthOf v)
    drawIndex := s.drawIndex + 1 }

/-- One rotate, step by step (40_rotate_common.md R160; the fetch of step 1 is in Machine/Step.lean):
`#UD` for LOCK (60_exceptions.md R301), then the destination with every check, then the result. -/
def rotate (v : Rotate) (s : State) : Result :=
  if v.pre.contains .lock then raise .ud s
  else
    match destination v s with
    | .error e => raise e s
    | .ok p => .next (finish v p s)

end Sys2Proof.Machine
end

