-- ==== Sys2Proof/Machine/Rcl.lean ====
section
/-! DEFINITION. The meanings of the fifteen rows of RCL, rotate through carry left (spec/41_rcl.md R201 to R215).
Each is the rotate of spec/40_rotate_common.md R160 with the function R200. -/

namespace Sys2Proof.Machine

/-- `RCL r/m8, 1` (41_rcl.md R201). -/
def execRclRm8One (pre : List Legacy) (dst : Rm) (s : State) : Result :=
  rotate ⟨.rcl, .one, .rm8, pre, dst⟩ s

/-- `RCL r/m8*, 1` (41_rcl.md R202). -/
def execRclRm8XOne (pre : List Legacy) (rex : Rex) (dst : Rm) (s : State) : Result :=
  rotate ⟨.rcl, .one, .rm8x rex, pre, dst⟩ s

/-- `RCL r/m8, CL` (41_rcl.md R203). -/
def execRclRm8Cl (pre : List Legacy) (dst : Rm) (s : State) : Result :=
  rotate ⟨.rcl, .cl, .rm8, pre, dst⟩ s

/-- `RCL r/m8*, CL` (41_rcl.md R204). -/
def execRclRm8XCl (pre : List Legacy) (rex : Rex) (dst : Rm) (s : State) : Result :=
  rotate ⟨.rcl, .cl, .rm8x rex, pre, dst⟩ s

/-- `RCL r/m8, imm8` (41_rcl.md R205). -/
def execRclRm8Imm (pre : List Legacy) (dst : Rm) (imm : Byte) (s : State) : Result :=
  rotate ⟨.rcl, .imm imm, .rm8, pre, dst⟩ s

/-- `RCL r/m8*, imm8` (41_rcl.md R206). -/
def execRclRm8XImm (pre : List Legacy) (rex : Rex) (dst : Rm) (imm : Byte) (s : State) : Result :=
  rotate ⟨.rcl, .imm imm, .rm8x rex, pre, dst⟩ s

/-- `RCL r/m16, 1` (41_rcl.md R207). -/
def execRclRm16One (pre : List Legacy) (rex : Option Rxb) (dst : Rm) (s : State) : Result :=
  rotate ⟨.rcl, .one, .rm16 rex, pre, dst⟩ s

/-- `RCL r/m16, CL` (41_rcl.md R208). -/
def execRclRm16Cl (pre : List Legacy) (rex : Option Rxb) (dst : Rm) (s : State) : Result :=
  rotate ⟨.rcl, .cl, .rm16 rex, pre, dst⟩ s

/-- `RCL r/m16, imm8` (41_rcl.md R209). -/
def execRclRm16Imm (pre : List Legacy) (rex : Option Rxb) (dst : Rm) (imm : Byte) (s : State) : Result :=
  rotate ⟨.rcl, .imm imm, .rm16 rex, pre, dst⟩ s

/-- `RCL r/m32, 1` (41_rcl.md R210). -/
def execRclRm32One (pre : List Legacy) (rex : Option Rxb) (dst : Rm) (s : State) : Result :=
  rotate ⟨.rcl, .one, .rm32 rex, pre, dst⟩ s

/-- `RCL r/m64, 1` (41_rcl.md R211). -/
def execRclRm64One (pre : List Legacy) (rex : Rxb) (dst : Rm) (s : State) : Result :=
  rotate ⟨.rcl, .one, .rm64 rex, pre, dst⟩ s

/-- `RCL r/m32, CL` (41_rcl.md R212). -/
def execRclRm32Cl (pre : List Legacy) (rex : Option Rxb) (dst : Rm) (s : State) : Result :=
  rotate ⟨.rcl, .cl, .rm32 rex, pre, dst⟩ s

/-- `RCL r/m64, CL` (41_rcl.md R213). -/
def execRclRm64Cl (pre : List Legacy) (rex : Rxb) (dst : Rm) (s : State) : Result :=
  rotate ⟨.rcl, .cl, .rm64 rex, pre, dst⟩ s

/-- `RCL r/m32, imm8` (41_rcl.md R214). -/
def execRclRm32Imm (pre : List Legacy) (rex : Option Rxb) (dst : Rm) (imm : Byte) (s : State) : Result :=
  rotate ⟨.rcl, .imm imm, .rm32 rex, pre, dst⟩ s

/-- `RCL r/m64, imm8` (41_rcl.md R215). -/
def execRclRm64Imm (pre : List Legacy) (rex : Rxb) (dst : Rm) (imm : Byte) (s : State) : Result :=
  rotate ⟨.rcl, .imm imm, .rm64 rex, pre, dst⟩ s

end Sys2Proof.Machine
end

