-- ==== Sys2Proof/Machine/Rcr.lean ====
section
/-! DEFINITION. The meanings of the fifteen rows of RCR, rotate through carry right (spec/42_rcr.md R221 to R235).
Each is the rotate of spec/40_rotate_common.md R160 with the function R220. -/

namespace Sys2Proof.Machine

/-- `RCR r/m8, 1` (42_rcr.md R221). -/
def execRcrRm8One (pre : List Legacy) (dst : Rm) (s : State) : Result :=
  rotate ⟨.rcr, .one, .rm8, pre, dst⟩ s

/-- `RCR r/m8*, 1` (42_rcr.md R222). -/
def execRcrRm8XOne (pre : List Legacy) (rex : Rex) (dst : Rm) (s : State) : Result :=
  rotate ⟨.rcr, .one, .rm8x rex, pre, dst⟩ s

/-- `RCR r/m8, CL` (42_rcr.md R223). -/
def execRcrRm8Cl (pre : List Legacy) (dst : Rm) (s : State) : Result :=
  rotate ⟨.rcr, .cl, .rm8, pre, dst⟩ s

/-- `RCR r/m8*, CL` (42_rcr.md R224). -/
def execRcrRm8XCl (pre : List Legacy) (rex : Rex) (dst : Rm) (s : State) : Result :=
  rotate ⟨.rcr, .cl, .rm8x rex, pre, dst⟩ s

/-- `RCR r/m8, imm8` (42_rcr.md R225). -/
def execRcrRm8Imm (pre : List Legacy) (dst : Rm) (imm : Byte) (s : State) : Result :=
  rotate ⟨.rcr, .imm imm, .rm8, pre, dst⟩ s

/-- `RCR r/m8*, imm8` (42_rcr.md R226). -/
def execRcrRm8XImm (pre : List Legacy) (rex : Rex) (dst : Rm) (imm : Byte) (s : State) : Result :=
  rotate ⟨.rcr, .imm imm, .rm8x rex, pre, dst⟩ s

/-- `RCR r/m16, 1` (42_rcr.md R227). -/
def execRcrRm16One (pre : List Legacy) (rex : Option Rxb) (dst : Rm) (s : State) : Result :=
  rotate ⟨.rcr, .one, .rm16 rex, pre, dst⟩ s

/-- `RCR r/m16, CL` (42_rcr.md R228). -/
def execRcrRm16Cl (pre : List Legacy) (rex : Option Rxb) (dst : Rm) (s : State) : Result :=
  rotate ⟨.rcr, .cl, .rm16 rex, pre, dst⟩ s

/-- `RCR r/m16, imm8` (42_rcr.md R229). -/
def execRcrRm16Imm (pre : List Legacy) (rex : Option Rxb) (dst : Rm) (imm : Byte) (s : State) : Result :=
  rotate ⟨.rcr, .imm imm, .rm16 rex, pre, dst⟩ s

/-- `RCR r/m32, 1` (42_rcr.md R230). -/
def execRcrRm32One (pre : List Legacy) (rex : Option Rxb) (dst : Rm) (s : State) : Result :=
  rotate ⟨.rcr, .one, .rm32 rex, pre, dst⟩ s

/-- `RCR r/m64, 1` (42_rcr.md R231). -/
def execRcrRm64One (pre : List Legacy) (rex : Rxb) (dst : Rm) (s : State) : Result :=
  rotate ⟨.rcr, .one, .rm64 rex, pre, dst⟩ s

/-- `RCR r/m32, CL` (42_rcr.md R232). -/
def execRcrRm32Cl (pre : List Legacy) (rex : Option Rxb) (dst : Rm) (s : State) : Result :=
  rotate ⟨.rcr, .cl, .rm32 rex, pre, dst⟩ s

/-- `RCR r/m64, CL` (42_rcr.md R233). -/
def execRcrRm64Cl (pre : List Legacy) (rex : Rxb) (dst : Rm) (s : State) : Result :=
  rotate ⟨.rcr, .cl, .rm64 rex, pre, dst⟩ s

/-- `RCR r/m32, imm8` (42_rcr.md R234). -/
def execRcrRm32Imm (pre : List Legacy) (rex : Option Rxb) (dst : Rm) (imm : Byte) (s : State) : Result :=
  rotate ⟨.rcr, .imm imm, .rm32 rex, pre, dst⟩ s

/-- `RCR r/m64, imm8` (42_rcr.md R235). -/
def execRcrRm64Imm (pre : List Legacy) (rex : Rxb) (dst : Rm) (imm : Byte) (s : State) : Result :=
  rotate ⟨.rcr, .imm imm, .rm64 rex, pre, dst⟩ s

end Sys2Proof.Machine
end

