-- ==== Sys2Proof/Machine/Rol.lean ====
section
/-! DEFINITION. The meanings of the fifteen rows of ROL, rotate left (spec/43_rol.md R241 to R255).
Each is the rotate of spec/40_rotate_common.md R160 with the function R240. -/

namespace Sys2Proof.Machine

/-- `ROL r/m8, 1` (43_rol.md R241). -/
def execRolRm8One (pre : List Legacy) (dst : Rm) (s : State) : Result :=
  rotate ⟨.rol, .one, .rm8, pre, dst⟩ s

/-- `ROL r/m8*, 1` (43_rol.md R242). -/
def execRolRm8XOne (pre : List Legacy) (rex : Rex) (dst : Rm) (s : State) : Result :=
  rotate ⟨.rol, .one, .rm8x rex, pre, dst⟩ s

/-- `ROL r/m8, CL` (43_rol.md R243). -/
def execRolRm8Cl (pre : List Legacy) (dst : Rm) (s : State) : Result :=
  rotate ⟨.rol, .cl, .rm8, pre, dst⟩ s

/-- `ROL r/m8*, CL` (43_rol.md R244). -/
def execRolRm8XCl (pre : List Legacy) (rex : Rex) (dst : Rm) (s : State) : Result :=
  rotate ⟨.rol, .cl, .rm8x rex, pre, dst⟩ s

/-- `ROL r/m8, imm8` (43_rol.md R245). -/
def execRolRm8Imm (pre : List Legacy) (dst : Rm) (imm : Byte) (s : State) : Result :=
  rotate ⟨.rol, .imm imm, .rm8, pre, dst⟩ s

/-- `ROL r/m8*, imm8` (43_rol.md R246). -/
def execRolRm8XImm (pre : List Legacy) (rex : Rex) (dst : Rm) (imm : Byte) (s : State) : Result :=
  rotate ⟨.rol, .imm imm, .rm8x rex, pre, dst⟩ s

/-- `ROL r/m16, 1` (43_rol.md R247). -/
def execRolRm16One (pre : List Legacy) (rex : Option Rxb) (dst : Rm) (s : State) : Result :=
  rotate ⟨.rol, .one, .rm16 rex, pre, dst⟩ s

/-- `ROL r/m16, CL` (43_rol.md R248). -/
def execRolRm16Cl (pre : List Legacy) (rex : Option Rxb) (dst : Rm) (s : State) : Result :=
  rotate ⟨.rol, .cl, .rm16 rex, pre, dst⟩ s

/-- `ROL r/m16, imm8` (43_rol.md R249). -/
def execRolRm16Imm (pre : List Legacy) (rex : Option Rxb) (dst : Rm) (imm : Byte) (s : State) : Result :=
  rotate ⟨.rol, .imm imm, .rm16 rex, pre, dst⟩ s

/-- `ROL r/m32, 1` (43_rol.md R250). -/
def execRolRm32One (pre : List Legacy) (rex : Option Rxb) (dst : Rm) (s : State) : Result :=
  rotate ⟨.rol, .one, .rm32 rex, pre, dst⟩ s

/-- `ROL r/m64, 1` (43_rol.md R251). -/
def execRolRm64One (pre : List Legacy) (rex : Rxb) (dst : Rm) (s : State) : Result :=
  rotate ⟨.rol, .one, .rm64 rex, pre, dst⟩ s

/-- `ROL r/m32, CL` (43_rol.md R252). -/
def execRolRm32Cl (pre : List Legacy) (rex : Option Rxb) (dst : Rm) (s : State) : Result :=
  rotate ⟨.rol, .cl, .rm32 rex, pre, dst⟩ s

/-- `ROL r/m64, CL` (43_rol.md R253). -/
def execRolRm64Cl (pre : List Legacy) (rex : Rxb) (dst : Rm) (s : State) : Result :=
  rotate ⟨.rol, .cl, .rm64 rex, pre, dst⟩ s

/-- `ROL r/m32, imm8` (43_rol.md R254). -/
def execRolRm32Imm (pre : List Legacy) (rex : Option Rxb) (dst : Rm) (imm : Byte) (s : State) : Result :=
  rotate ⟨.rol, .imm imm, .rm32 rex, pre, dst⟩ s

/-- `ROL r/m64, imm8` (43_rol.md R255). -/
def execRolRm64Imm (pre : List Legacy) (rex : Rxb) (dst : Rm) (imm : Byte) (s : State) : Result :=
  rotate ⟨.rol, .imm imm, .rm64 rex, pre, dst⟩ s

end Sys2Proof.Machine
end

