-- ==== Sys2Proof/Machine/Ror.lean ====
section
/-! DEFINITION. The meanings of the fifteen rows of ROR, rotate right (spec/44_ror.md R261 to R275).
Each is the rotate of spec/40_rotate_common.md R160 with the function R260. -/

namespace Sys2Proof.Machine

/-- `ROR r/m8, 1` (44_ror.md R261). -/
def execRorRm8One (pre : List Legacy) (dst : Rm) (s : State) : Result :=
  rotate ⟨.ror, .one, .rm8, pre, dst⟩ s

/-- `ROR r/m8*, 1` (44_ror.md R262). -/
def execRorRm8XOne (pre : List Legacy) (rex : Rex) (dst : Rm) (s : State) : Result :=
  rotate ⟨.ror, .one, .rm8x rex, pre, dst⟩ s

/-- `ROR r/m8, CL` (44_ror.md R263). -/
def execRorRm8Cl (pre : List Legacy) (dst : Rm) (s : State) : Result :=
  rotate ⟨.ror, .cl, .rm8, pre, dst⟩ s

/-- `ROR r/m8*, CL` (44_ror.md R264). -/
def execRorRm8XCl (pre : List Legacy) (rex : Rex) (dst : Rm) (s : State) : Result :=
  rotate ⟨.ror, .cl, .rm8x rex, pre, dst⟩ s

/-- `ROR r/m8, imm8` (44_ror.md R265). -/
def execRorRm8Imm (pre : List Legacy) (dst : Rm) (imm : Byte) (s : State) : Result :=
  rotate ⟨.ror, .imm imm, .rm8, pre, dst⟩ s

/-- `ROR r/m8*, imm8` (44_ror.md R266). -/
def execRorRm8XImm (pre : List Legacy) (rex : Rex) (dst : Rm) (imm : Byte) (s : State) : Result :=
  rotate ⟨.ror, .imm imm, .rm8x rex, pre, dst⟩ s

/-- `ROR r/m16, 1` (44_ror.md R267). -/
def execRorRm16One (pre : List Legacy) (rex : Option Rxb) (dst : Rm) (s : State) : Result :=
  rotate ⟨.ror, .one, .rm16 rex, pre, dst⟩ s

/-- `ROR r/m16, CL` (44_ror.md R268). -/
def execRorRm16Cl (pre : List Legacy) (rex : Option Rxb) (dst : Rm) (s : State) : Result :=
  rotate ⟨.ror, .cl, .rm16 rex, pre, dst⟩ s

/-- `ROR r/m16, imm8` (44_ror.md R269). -/
def execRorRm16Imm (pre : List Legacy) (rex : Option Rxb) (dst : Rm) (imm : Byte) (s : State) : Result :=
  rotate ⟨.ror, .imm imm, .rm16 rex, pre, dst⟩ s

/-- `ROR r/m32, 1` (44_ror.md R270). -/
def execRorRm32One (pre : List Legacy) (rex : Option Rxb) (dst : Rm) (s : State) : Result :=
  rotate ⟨.ror, .one, .rm32 rex, pre, dst⟩ s

/-- `ROR r/m64, 1` (44_ror.md R271). -/
def execRorRm64One (pre : List Legacy) (rex : Rxb) (dst : Rm) (s : State) : Result :=
  rotate ⟨.ror, .one, .rm64 rex, pre, dst⟩ s

/-- `ROR r/m32, CL` (44_ror.md R272). -/
def execRorRm32Cl (pre : List Legacy) (rex : Option Rxb) (dst : Rm) (s : State) : Result :=
  rotate ⟨.ror, .cl, .rm32 rex, pre, dst⟩ s

/-- `ROR r/m64, CL` (44_ror.md R273). -/
def execRorRm64Cl (pre : List Legacy) (rex : Rxb) (dst : Rm) (s : State) : Result :=
  rotate ⟨.ror, .cl, .rm64 rex, pre, dst⟩ s

/-- `ROR r/m32, imm8` (44_ror.md R274). -/
def execRorRm32Imm (pre : List Legacy) (rex : Option Rxb) (dst : Rm) (imm : Byte) (s : State) : Result :=
  rotate ⟨.ror, .imm imm, .rm32 rex, pre, dst⟩ s

/-- `ROR r/m64, imm8` (44_ror.md R275). -/
def execRorRm64Imm (pre : List Legacy) (rex : Rxb) (dst : Rm) (imm : Byte) (s : State) : Result :=
  rotate ⟨.ror, .imm imm, .rm64 rex, pre, dst⟩ s

end Sys2Proof.Machine
end

