-- ==== Sys2Proof/Machine/Dispatch.lean ====
section
/-! DEFINITION. One arm per instruction, each a direct call of its meaning. -/

namespace Sys2Proof.Machine

/-- The meaning of an instruction. -/
def exec (i : Instr) (s : State) : Host.Outcome State Fault Refusal :=
  match i with
  | .rclRm8One pre dst => Sys2Proof.Machine.execRclRm8One pre dst s
  | .rclRm8XOne pre rex dst => Sys2Proof.Machine.execRclRm8XOne pre rex dst s
  | .rclRm8Cl pre dst => Sys2Proof.Machine.execRclRm8Cl pre dst s
  | .rclRm8XCl pre rex dst => Sys2Proof.Machine.execRclRm8XCl pre rex dst s
  | .rclRm8Imm pre dst imm => Sys2Proof.Machine.execRclRm8Imm pre dst imm s
  | .rclRm8XImm pre rex dst imm => Sys2Proof.Machine.execRclRm8XImm pre rex dst imm s
  | .rclRm16One pre rex dst => Sys2Proof.Machine.execRclRm16One pre rex dst s
  | .rclRm16Cl pre rex dst => Sys2Proof.Machine.execRclRm16Cl pre rex dst s
  | .rclRm16Imm pre rex dst imm => Sys2Proof.Machine.execRclRm16Imm pre rex dst imm s
  | .rclRm32One pre rex dst => Sys2Proof.Machine.execRclRm32One pre rex dst s
  | .rclRm64One pre rex dst => Sys2Proof.Machine.execRclRm64One pre rex dst s
  | .rclRm32Cl pre rex dst => Sys2Proof.Machine.execRclRm32Cl pre rex dst s
  | .rclRm64Cl pre rex dst => Sys2Proof.Machine.execRclRm64Cl pre rex dst s
  | .rclRm32Imm pre rex dst imm => Sys2Proof.Machine.execRclRm32Imm pre rex dst imm s
  | .rclRm64Imm pre rex dst imm => Sys2Proof.Machine.execRclRm64Imm pre rex dst imm s
  | .rcrRm8One pre dst => Sys2Proof.Machine.execRcrRm8One pre dst s
  | .rcrRm8XOne pre rex dst => Sys2Proof.Machine.execRcrRm8XOne pre rex dst s
  | .rcrRm8Cl pre dst => Sys2Proof.Machine.execRcrRm8Cl pre dst s
  | .rcrRm8XCl pre rex dst => Sys2Proof.Machine.execRcrRm8XCl pre rex dst s
  | .rcrRm8Imm pre dst imm => Sys2Proof.Machine.execRcrRm8Imm pre dst imm s
  | .rcrRm8XImm pre rex dst imm => Sys2Proof.Machine.execRcrRm8XImm pre rex dst imm s
  | .rcrRm16One pre rex dst => Sys2Proof.Machine.execRcrRm16One pre rex dst s
  | .rcrRm16Cl pre rex dst => Sys2Proof.Machine.execRcrRm16Cl pre rex dst s
  | .rcrRm16Imm pre rex dst imm => Sys2Proof.Machine.execRcrRm16Imm pre rex dst imm s
  | .rcrRm32One pre rex dst => Sys2Proof.Machine.execRcrRm32One pre rex dst s
  | .rcrRm64One pre rex dst => Sys2Proof.Machine.execRcrRm64One pre rex dst s
  | .rcrRm32Cl pre rex dst => Sys2Proof.Machine.execRcrRm32Cl pre rex dst s
  | .rcrRm64Cl pre rex dst => Sys2Proof.Machine.execRcrRm64Cl pre rex dst s
  | .rcrRm32Imm pre rex dst imm => Sys2Proof.Machine.execRcrRm32Imm pre rex dst imm s
  | .rcrRm64Imm pre rex dst imm => Sys2Proof.Machine.execRcrRm64Imm pre rex dst imm s
  | .rolRm8One pre dst => Sys2Proof.Machine.execRolRm8One pre dst s
  | .rolRm8XOne pre rex dst => Sys2Proof.Machine.execRolRm8XOne pre rex dst s
  | .rolRm8Cl pre dst => Sys2Proof.Machine.execRolRm8Cl pre dst s
  | .rolRm8XCl pre rex dst => Sys2Proof.Machine.execRolRm8XCl pre rex dst s
  | .rolRm8Imm pre dst imm => Sys2Proof.Machine.execRolRm8Imm pre dst imm s
  | .rolRm8XImm pre rex dst imm => Sys2Proof.Machine.execRolRm8XImm pre rex dst imm s
  | .rolRm16One pre rex dst => Sys2Proof.Machine.execRolRm16One pre rex dst s
  | .rolRm16Cl pre rex dst => Sys2Proof.Machine.execRolRm16Cl pre rex dst s
  | .rolRm16Imm pre rex dst imm => Sys2Proof.Machine.execRolRm16Imm pre rex dst imm s
  | .rolRm32One pre rex dst => Sys2Proof.Machine.execRolRm32One pre rex dst s
  | .rolRm64One pre rex dst => Sys2Proof.Machine.execRolRm64One pre rex dst s
  | .rolRm32Cl pre rex dst => Sys2Proof.Machine.execRolRm32Cl pre rex dst s
  | .rolRm64Cl pre rex dst => Sys2Proof.Machine.execRolRm64Cl pre rex dst s
  | .rolRm32Imm pre rex dst imm => Sys2Proof.Machine.execRolRm32Imm pre rex dst imm s
  | .rolRm64Imm pre rex dst imm => Sys2Proof.Machine.execRolRm64Imm pre rex dst imm s
  | .rorRm8One pre dst => Sys2Proof.Machine.execRorRm8One pre dst s
  | .rorRm8XOne pre rex dst => Sys2Proof.Machine.execRorRm8XOne pre rex dst s
  | .rorRm8Cl pre dst => Sys2Proof.Machine.execRorRm8Cl pre dst s
  | .rorRm8XCl pre rex dst => Sys2Proof.Machine.execRorRm8XCl pre rex dst s
  | .rorRm8Imm pre dst imm => Sys2Proof.Machine.execRorRm8Imm pre dst imm s
  | .rorRm8XImm pre rex dst imm => Sys2Proof.Machine.execRorRm8XImm pre rex dst imm s
  | .rorRm16One pre rex dst => Sys2Proof.Machine.execRorRm16One pre rex dst s
  | .rorRm16Cl pre rex dst => Sys2Proof.Machine.execRorRm16Cl pre rex dst s
  | .rorRm16Imm pre rex dst imm => Sys2Proof.Machine.execRorRm16Imm pre rex dst imm s
  | .rorRm32One pre rex dst => Sys2Proof.Machine.execRorRm32One pre rex dst s
  | .rorRm64One pre rex dst => Sys2Proof.Machine.execRorRm64One pre rex dst s
  | .rorRm32Cl pre rex dst => Sys2Proof.Machine.execRorRm32Cl pre rex dst s
  | .rorRm64Cl pre rex dst => Sys2Proof.Machine.execRorRm64Cl pre rex dst s
  | .rorRm32Imm pre rex dst imm => Sys2Proof.Machine.execRorRm32Imm pre rex dst imm s
  | .rorRm64Imm pre rex dst imm => Sys2Proof.Machine.execRorRm64Imm pre rex dst imm s

end Sys2Proof.Machine
end

