-- ==== Sys2Proof/Machine/Step.lean ====
section
/-! DEFINITION. One step: fetch and decode the bytes at the instruction pointer, then the meaning of the
instruction (spec/40_rotate_common.md R160, step 1); and where a table word is placed to be fetched. -/

namespace Sys2Proof.Machine

/-- One step (40_rotate_common.md R160). With RFLAGS.TF = 1 it is refused (60_exceptions.md R331). Bytes
that are no rotate are refused by name (30_encoding.md R118); an instruction whose bytes cannot be
fetched takes the fetch exception (20_memory.md R76, 30_encoding.md R118), and one longer than the fetch
window `#GP` (R116), which no rotate is. -/
def step (s : State) : Host.Outcome State Fault Refusal :=
  if s.flags.tf then .refused .singleStep
  else
    match decode s.mode s.csD s.fetchWindow.1 with
    | .ok (i, _) => exec i s
    | .error (.reject why) => .refused (.undecoded why)
    | .error .short => raise (s.fetchWindow.2.getD .gp) s

/-- The state with the instruction of a table word where the next step fetches it (assumption log 2). -/
def State.withFetchWord (s : State) (nbits w : Nat) : State :=
  { s with mem := s.placeCode 0 s.mem (tableBytes nbits w) }

end Sys2Proof.Machine
end

