-- ==== Sys2Proof/Safety.lean ====
section
/-! DEFINITION. What a well-formed launch is, the invariant every step keeps, and how a run ends
(spec/70_reset_and_hazards.md R351, R363). -/

namespace Sys2Proof.Machine

/-- A well-formed launch (70_reset_and_hazards.md R351): TF is 0; in `Long64` RIP is canonical and CS.D
is 0 (10_state.md R33). That CPL agrees with the mode and the reserved bits of RFLAGS are constants
holds by construction; memory is in its canonical form. -/
def State.launchOk (s : State) : Prop :=
  s.flags.tf = false ∧ (s.mode = .long64 → canonical s.vaBits s.rip = true ∧ s.csD = false)
    ∧ Memory.wf s.mem

/-- The invariant every step keeps: memory is in its canonical form; TF is 0 (60_exceptions.md R331);
CS.D is 0 in 64-bit mode (10_state.md R33); outside it the instruction pointer is 32 bits wide (R26). -/
structure State.Inv (s : State) : Prop where
  mem : Memory.wf s.mem
  trap : s.flags.tf = false
  size : s.mode = .long64 → s.csD = false
  eip : s.mode ≠ .long64 → s.rip.toNat < 2 ^ 32

/-- What no rotate changes (10_state.md R20, R33): the segment records, the control registers and the
launch's parameters. -/
structure SameControl (s t : State) : Prop where
  es : t.es = s.es
  cs : t.cs = s.cs
  ss : t.ss = s.ss
  ds : t.ds = s.ds
  fs : t.fs = s.fs
  gs : t.gs = s.gs
  csL : t.csL = s.csL
  csD : t.csD = s.csD
  cr0 : t.cr0 = s.cr0
  cr2 : t.cr2 = s.cr2
  cr3 : t.cr3 = s.cr3
  cr4 : t.cr4 = s.cr4
  efer : t.efer = s.efer
  idtrBase : t.idtrBase = s.idtrBase
  idtrLimit : t.idtrLimit = s.idtrLimit
  dr6 : t.dr6 = s.dr6
  dr7 : t.dr7 = s.dr7
  translation : t.translation = s.translation
  vaBits : t.vaBits = s.vaBits

/-- The instruction is a memory form (30_encoding.md R105: `mod` is not 3). -/
def isMemory (i : Instr) : Prop := ∀ rm, (view i).dst ≠ .reg rm

/-- The segment of an instruction's memory operand in a state (30_encoding.md R115). -/
def operandSegment (i : Instr) (s : State) : SegReg := segmentOf s.mode (view i)

/-- The effective address of an instruction's memory operand in a state (30_encoding.md R110 to R112). -/
def operandAddress (i : Instr) (s : State) : Word64 :=
  effectiveAddress s (s.addressSize (view i)) (view i).row (s.ripNext (encode i).length) (view i).dst

/-- The linear address of byte `j` of an instruction's memory operand (20_memory.md R63). -/
def operandLinear (i : Instr) (s : State) (j : Nat) : Word64 :=
  s.linear (operandSegment i s) (operandAddress i s) j

/-- The memory operand is inside the limit of its segment (20_memory.md R63 to R65). -/
def operandInLimit (i : Instr) (s : State) : Bool :=
  (s.seg (operandSegment i s)).inLimit (s.addressSize (view i)) (operandAddress i s).toNat
    (view i).row.size.bytes

/-- Every byte of the memory operand is at a canonical address (20_memory.md R66). -/
def operandCanonical (i : Instr) (s : State) : Prop :=
  ∀ j < (view i).row.size.bytes, canonical s.vaBits (operandLinear i s j) = true

/-- The segment-level checks of the mode pass (20_memory.md R64, R65, R66). -/
def segmentPasses (i : Instr) (s : State) : Prop :=
  match s.mode with
  | .real => operandInLimit i s = true
  | .v86 => operandInLimit i s = true
  | .prot => protectedPasses
  | .compat => protectedPasses
  | .long64 => operandCanonical i s ∧ s.segWritable (operandSegment i s) = true
where
  /-- 20_memory.md R64. -/
  protectedPasses : Prop :=
    ¬(isDataSegment (operandSegment i s) = true ∧ (s.seg (operandSegment i s)).null = true)
      ∧ s.segWritable (operandSegment i s) = true ∧ operandInLimit i s = true

/-- The memory operand is unaligned with alignment checking on (20_memory.md R68). -/
def operandMisaligned (i : Instr) (s : State) : Prop :=
  s.mode ≠ .real ∧ s.cr0.getLsbD 18 = true ∧ s.flags.ac = true ∧ s.cpl = 3 ∧ 1 < (view i).row.size.bytes
    ∧ (operandLinear i s 0).toNat % (view i).row.size.bytes ≠ 0

/-- Every byte of the memory operand translates for a write (20_memory.md R67). -/
def operandMapped (i : Instr) (s : State) : Prop :=
  ∀ j < (view i).row.size.bytes, ∃ pa, s.translate (operandLinear i s j) .write = .ok pa

/-- The signed displacement of a 16-bit address, 0 if there is none (30_encoding.md R112, R113). -/
def disp16Int : Disp16 → Int
  | .none => 0
  | .d8 d => d.toInt
  | .d16 d => d.toInt

/-- The signed displacement of a 32- or 64-bit address, 0 if there is none (30_encoding.md R110,
R113). -/
def disp32Int : Disp32 → Int
  | .none => 0
  | .d8 d => d.toInt
  | .d32 d => d.toInt

/-- The number of a register: a bit of the row's REX byte above three bits of the encoding, 0 without a
REX byte (30_encoding.md R103, R109). -/
def extendedNumber (w : Row) (bit : Rxb → Bool) (low : BitVec 3) : Nat :=
  (match w.rex with
    | none => 0
    | some x => if bit x.rxb then 8 else 0) + low.toNat

/-- How a run ends (70_reset_and_hazards.md R363): by a fault, with the state before the faulting
instruction; at the end address; by a refusal; or not yet, after the steps allowed. -/
inductive RunEnd where
  | fault (r : Fault) (before : State)
  | finished (s : State)
  | refused (r : Refusal) (before : State)
  | running (s : State)
  deriving DecidableEq, Repr

/-- A run of at most so many steps to a named end address (70_reset_and_hazards.md R363; assumption log
27). -/
def runTo (ripEnd : Word64) (s : State) : Nat → RunEnd
  | 0 => if s.ip = ripEnd then .finished s else .running s
  | k + 1 =>
    if s.ip = ripEnd then .finished s
    else
      match step s with
      | .next t => runTo ripEnd t k
      | .fault r => .fault r s
      | .refused r => .refused r s

end Sys2Proof.Machine
end

