-- ==== Sys2Proof/WellFormed.lean ====
section
/-! DEFINITION. When an instruction is one that an encoding of spec/30_encoding.md has, in a given
mode and code-segment size. The checks are named, and each is a Bool. -/

namespace Sys2Proof

/-- At most one legacy prefix of each group (30_encoding.md R101). -/
def groupsDistinct : List Legacy → Bool
  | [] => true
  | p :: ps => !ps.any (fun q => q.group = p.group) && groupsDistinct ps

/-- A REX byte exists in 64-bit mode only (30_encoding.md R103, R117). -/
def rexAllowed (m : Mode) (w : Row) : Bool := w.rex.isNone || m = .long64

/-- A wide row has the operand size its prefixes and the mode select (30_encoding.md R107). -/
def sizeAgrees (m : Mode) (csD : Bool) (pre : List Legacy) : Row → Bool
  | .rm8 => true
  | .rm8x _ => true
  | .rm16 _ => wideSize m csD pre false = .b16
  | .rm32 _ => wideSize m csD pre false = .b32
  | .rm64 _ => true

/-- A memory form belongs to the address size in force (30_encoding.md R108, R110, R112). -/
def addressAgrees (a : AddrSize) : Rm → Bool
  | .reg _ => true
  | .mem16 _ _ => a = .a16
  | .abs16 _ => a = .a16
  | .mem _ _ => a ≠ .a16
  | .abs32 _ => a ≠ .a16
  | .sib _ _ _ _ => a ≠ .a16
  | .sibAbs _ _ _ => a ≠ .a16

/-- The combinations of `mod` and `rm`, or of `mod` and SIB base, that mean something else
(30_encoding.md R110, R111, R112): `[BP]` without displacement is `abs16`; `rm = 4` is a SIB byte;
`rm = 5` or SIB base 5 without displacement is a 32-bit displacement. -/
def shapeAllowed : Rm → Bool
  | .reg _ => true
  | .mem16 b d => !(b = .bp && d = .none)
  | .abs16 _ => true
  | .mem b d => b ≠ 4#3 && !(b = 5#3 && d = .none)
  | .abs32 _ => true
  | .sib _ _ b d => !(b = 5#3 && d = .none)
  | .sibAbs _ _ _ => true

/-- The parts are those of an encoding in mode `m` with code-segment size `csD`. -/
def rotateFits (m : Mode) (csD : Bool) (v : Rotate) : Bool :=
  groupsDistinct v.pre && rexAllowed m v.row && sizeAgrees m csD v.pre v.row
    && addressAgrees (addressSize m csD v.pre) v.dst && shapeAllowed v.dst

/-- The instruction has an encoding in mode `m` with code-segment size `csD` (30_encoding.md R100 to
R117). -/
def wellFormed (m : Mode) (csD : Bool) (i : Instr) : Bool := rotateFits m csD (view i)

end Sys2Proof
end

