-- ==== Sys2Proof/Certificates/Slice0/Obligations.lean ====
section
/-! DEFINITION. The statements about the model, from the numbered rules of spec/. -/

open Sys2Proof Sys2Proof.Machine

/-! ## Encoding -/

/-- Decoding what the encoder writes gives the instruction back, in every mode, with every operand at
every value its encoding admits (30_encoding.md R100 to R117). All 60 constructors. -/
def Obligations.DecodeEncode : Prop :=
  ∀ (m : Mode) (csD : Bool) (i : Instr) (rest : List Byte),
    wellFormed m csD i = true → decode m csD (encode i ++ rest) = .ok (i, rest)

/-- What decodes is the encoding of the instruction decoded, and that instruction is well-formed, so no
other byte string is accepted (30_encoding.md R100 to R118). -/
def Obligations.EncodeDecode : Prop :=
  ∀ (m : Mode) (csD : Bool) (bs rest : List Byte) (i : Instr),
    decode m csD bs = .ok (i, rest) → bs = encode i ++ rest ∧ wellFormed m csD i = true

/-- Words written out from the encoding tables, one of each mnemonic, operand size, addressing form and
count (30_encoding.md R101 to R114). -/
def Obligations.SampleWords : Prop :=
  decode .long64 false [0xD0, 0xC4] = .ok (.rolRm8One [] (.reg 4), [])
    ∧ decode .long64 false [0x44, 0xD0, 0xC4] = .ok (.rolRm8XOne [] ⟨false, ⟨true, false, false⟩⟩ (.reg 4), [])
    ∧ decode .long64 false [0x49, 0xC1, 0xD7, 0x3F] = .ok (.rclRm64Imm [] ⟨false, false, true⟩ (.reg 7) 0x3F, [])
    ∧ decode .prot true [0xD3, 0xC8] = .ok (.rorRm32Cl [] none (.reg 0), [])
    ∧ decode .v86 false [0xD3, 0xD3] = .ok (.rclRm16Cl [] none (.reg 3), [])
    ∧ decode .real false [0xD1, 0x5E, 0xFE] = .ok (.rcrRm16One [] none (.mem16 .bp (.d8 0xFE)), [])
    ∧ decode .compat true [0x65, 0xD1, 0x43, 0x04] = .ok (.rolRm32One [.seg .gs] none (.mem 3 (.d8 4)), [])
    ∧ decode .long64 false [0x42, 0xD1, 0x0C, 0x23] =
      .ok (.rorRm32One [] (some ⟨false, true, false⟩) (.sib 0 4 3 .none), [])
    ∧ decode .long64 false [0xC0, 0x05, 0x01, 0x00, 0x00, 0x00, 0x03] = .ok (.rolRm8Imm [] (.abs32 1) 3, [])
    ∧ decode .long64 false [0xD1, 0x1C, 0x25, 0x00, 0x20, 0x00, 0x00] =
      .ok (.rcrRm32One [] none (.sibAbs 0 4 0x2000), [])
    ∧ decode .real false [0xD1, 0x06, 0x34, 0x12] = .ok (.rolRm16One [] none (.abs16 0x1234), [])

/-- A rotate opcode byte with ModRM.reg 4 to 7, after any prefixes of different groups and, in 64-bit mode,
any REX byte or none, is refused by name, never decoded and never a fault (30_encoding.md R106, R118). -/
def Obligations.ShiftGroupRefused : Prop :=
  ∀ (m : Mode) (csD : Bool) (pre : List Legacy) (rex : Option Rex) (op mr : Byte) (rest : List Byte),
    groupsDistinct pre = true → (rex = none ∨ m = .long64) →
    op ∈ [0xC0#8, 0xC1#8, 0xD0#8, 0xD1#8, 0xD2#8, 0xD3#8] → 4 ≤ (mr.extractLsb' 3 3).toNat →
    decode m csD (pre.map legacyByte ++ (rex.map rexByte).toList ++ op :: mr :: rest) =
      .error (.reject (.shiftGroup (mr.extractLsb' 3 3)))

/-- A well-formed instruction is 2 to 13 bytes long, and its length is the sum of its parts
(30_encoding.md R116). -/
def Obligations.LengthBounds : Prop :=
  ∀ (m : Mode) (csD : Bool) (i : Instr), wellFormed m csD i = true →
    2 ≤ (encode i).length ∧ (encode i).length ≤ 13
      ∧ (encode i).length = (view i).pre.length + (if (view i).row.rex.isSome then 1 else 0) + 2
        + (match (view i).dst with
          | .reg _ => 0
          | .mem16 _ .none => 0
          | .mem16 _ (.d8 _) => 1
          | .mem16 _ (.d16 _) => 2
          | .abs16 _ => 2
          | .mem _ .none => 0
          | .mem _ (.d8 _) => 1
          | .mem _ (.d32 _) => 4
          | .abs32 _ => 4
          | .sib _ _ _ .none => 1
          | .sib _ _ _ (.d8 _) => 2
          | .sib _ _ _ (.d32 _) => 5
          | .sibAbs _ _ _ => 5)
        + (match (view i).count with | .imm _ => 1 | .one => 0 | .cl => 0)

/-- Outside 64-bit mode no row with a REX byte decodes: only the 36 rows without REX are in scope
(30_encoding.md R117). -/
def Obligations.NoRexOutsideLong64 : Prop :=
  ∀ (m : Mode) (csD : Bool) (bs rest : List Byte) (i : Instr),
    m ≠ .long64 → decode m csD bs = .ok (i, rest) → (view i).row.rex = none ∧ (view i).row.size ≠ .b64

/-- The operand size of what decodes (30_encoding.md R107): 64 bits only in 64-bit mode with REX.W; of 16
and 32 bits, `66` and the default of the mode and of CS.D select. -/
def Obligations.DecodedSize : Prop :=
  ∀ (m : Mode) (csD : Bool) (bs rest : List Byte) (i : Instr), decode m csD bs = .ok (i, rest) →
    ((view i).row.size = .b64 → m = .long64 ∧ ∃ x, (view i).row.rex = some x ∧ x.w = true)
    ∧ ((view i).row.size = .b16 ∨ (view i).row.size = .b32 →
      (∀ x, (view i).row.rex = some x → x.w = false)
      ∧ (m = .long64 → ((view i).row.size = .b16 ↔ Legacy.opsize ∈ (view i).pre))
      ∧ (m = .real ∨ m = .v86 → ((view i).row.size = .b32 ↔ Legacy.opsize ∈ (view i).pre))
      ∧ (m = .prot ∨ m = .compat → csD = false → ((view i).row.size = .b32 ↔ Legacy.opsize ∈ (view i).pre))
      ∧ (m = .prot ∨ m = .compat → csD = true → ((view i).row.size = .b16 ↔ Legacy.opsize ∈ (view i).pre)))

/-! ## The step -/

/-- A step runs the instruction its bytes decode to: `exec` is all of it (40_rotate_common.md R160). -/
def Obligations.StepRunsDecoded : Prop :=
  ∀ (s : State) (i : Instr) (rest : List Byte),
    s.flags.tf = false → decode s.mode s.csD s.fetchWindow.1 = .ok (i, rest) → step s = exec i s

/-- When the bytes of a well-formed instruction stand where they are fetched, the step is that
instruction (40_rotate_common.md R160, 20_memory.md R74, R76). -/
def Obligations.StepRunsEncoded : Prop :=
  ∀ (s : State) (i : Instr),
    s.flags.tf = false → wellFormed s.mode s.csD i = true →
    (∀ j (h : j < (encode i).length), ∃ pa, s.fetchAddress j = .ok pa ∧ Memory.read s.mem pa = (encode i)[j]) →
    step s = exec i s

/-- Instruction bytes are those of the memory at the moment of the fetch, whoever stored them
(20_memory.md R74, 70_reset_and_hazards.md R361). -/
def Obligations.FetchSeesMemory : Prop :=
  ∀ (s : State) (j : Nat) (pa : Word64), j < 15 → s.fetchAddress j = .ok pa →
    (∀ k < j, ∃ pb, s.fetchAddress k = .ok pb) → s.fetchWindow.1[j]? = some (Memory.read s.mem pa)

/-- The byte at the instruction pointer is checked by the mode's rule: the CS limit, canonical form,
page permission (20_memory.md R76); a failure is that fault. -/
def Obligations.FetchFaults : Prop :=
  ∀ (s : State), s.flags.tf = false →
    (s.mode ≠ .long64 → s.cs.covers s.ip.toNat = false →
      step s = .fault (.gp (if s.mode = .real then none else some 0) s.ip))
    ∧ (s.mode = .long64 → canonical s.vaBits s.rip = false → step s = .fault (.gp (some 0) s.rip))
    ∧ (s.mode = .long64 → canonical s.vaBits s.rip = true → ∀ code,
      s.translate s.rip .execute = .pageFault code → step s = .fault (.pf code s.rip s.rip))
    ∧ (s.mode ≠ .long64 → s.cs.covers s.ip.toNat = true → ∀ code,
      s.translate (s.linear .cs s.ip 0) .execute = .pageFault code →
      step s = .fault (.pf code (s.linear .cs s.ip 0) s.ip))

/-- With RFLAGS.TF = 1 a step is refused (60_exceptions.md R331). -/
def Obligations.TrapRefused : Prop :=
  ∀ (s : State), s.flags.tf = true → step s = .refused .singleStep

/-! ## Counts and rotate functions -/

/-- The masked count: `COUNT` modulo 64 for a 64-bit operand and modulo 32 for every other, in every
mode, `COUNT` being 1, CL or the immediate (40_rotate_common.md R161, R162). -/
def Obligations.MaskedCount : Prop :=
  ∀ (i : Instr) (s : State),
    maskedCountOf (view i) s =
      (match (view i).count with | .one => 1 | .cl => s.cl.toNat | .imm ib => ib.toNat)
        % (if (view i).row.size = .b64 then 64 else 32)

/-- The effective amount (40_rotate_common.md R163): `m` modulo 9, 17, 33, 65 for RCL and RCR and modulo 8,
16, 32, 64 for ROL and ROR, which is `m` itself at 32 and 64 bits; and where it is 0 although the masked
count is not. -/
def Obligations.ZeroAmounts : Prop :=
  ∀ (op : RotOp) (n : OpSize) (m : Nat), m < (if n = .b64 then 64 else 32) →
    rotateAmount op n m = (if op = .rcl ∨ op = .rcr then m % (n.bits + 1) else m % n.bits)
    ∧ (n = .b32 ∨ n = .b64 → rotateAmount op n m = m)
    ∧ (m ≠ 0 → (rotateAmount op n m = 0 ↔
      ((op = .rcl ∨ op = .rcr) ∧ ((n = .b8 ∧ m ∈ [9, 18, 27]) ∨ (n = .b16 ∧ m = 17)))
        ∨ ((op = .rol ∨ op = .ror) ∧ ((n = .b8 ∧ m ∈ [8, 16, 24]) ∨ (n = .b16 ∧ m = 16)))))

/-- The loop of RCL is a rotation of carry and operand, `n + 1` bits, to the left (41_rcl.md R200). -/
def Obligations.RclClosedForm : Prop :=
  ∀ (n : OpSize) (d : BitVec n.bits) (c : Bool) (m : Nat) (x : BitVec (1 + n.bits)),
    x = (BitVec.ofBool c ++ d).rotateLeft (rotateAmount .rcl n m) →
    (rcl n d c m).res = x.setWidth n.bits ∧ (rcl n d c m).cf = x.msb
      ∧ (m = 1 → (rcl n d c m).of = (d.getLsbD (n.bits - 2) ^^ d.msb))

/-- The loop of RCR is a rotation of carry and operand, `n + 1` bits, to the right; OF at a masked
count of 1 is the exclusive or of the result's top two bits (42_rcr.md R220). -/
def Obligations.RcrClosedForm : Prop :=
  ∀ (n : OpSize) (d : BitVec n.bits) (c : Bool) (m : Nat) (x : BitVec (1 + n.bits)),
    x = (BitVec.ofBool c ++ d).rotateRight (rotateAmount .rcr n m) →
    (rcr n d c m).res = x.setWidth n.bits ∧ (rcr n d c m).cf = x.msb
      ∧ (m = 1 → (rcr n d c m).of = (x.getLsbD (n.bits - 1) ^^ x.getLsbD (n.bits - 2)))

/-- The loop of ROL is a rotation of the operand to the left; CF is the bit that went round
(43_rol.md R240). -/
def Obligations.RolClosedForm : Prop :=
  ∀ (n : OpSize) (d : BitVec n.bits) (c : Bool) (m t : Nat), t = rotateAmount .rol n m →
    (rol n d c m).res = d.rotateLeft t
      ∧ (rol n d c m).cf = (if m = 0 then c else d.getLsbD ((n.bits - t) % n.bits))
      ∧ (m = 1 → (rol n d c m).of = (d.getLsbD (n.bits - 2) ^^ d.msb))

/-- The loop of ROR is a rotation of the operand to the right; CF is the bit that went round
(44_ror.md R260). -/
def Obligations.RorClosedForm : Prop :=
  ∀ (n : OpSize) (d : BitVec n.bits) (c : Bool) (m t : Nat), t = rotateAmount .ror n m →
    (ror n d c m).res = d.rotateRight t
      ∧ (ror n d c m).cf = (if m = 0 then c else d.getLsbD ((t + n.bits - 1) % n.bits))
      ∧ (m = 1 → (ror n d c m).of = (d.getLsbD 0 ^^ d.msb))

/-- The laws of rotation (40_rotate_common.md R175): (a) ROR undoes ROL; (b) RCR undoes RCL on carry and
operand; (c) ROL by `t` and ROR by `n - t` agree; (d) the number of 1 bits is kept. -/
def Obligations.RotationLaws : Prop :=
  ∀ (n : OpSize) (d : BitVec n.bits) (c : Bool) (t : Nat),
    rorLoop t (rolLoop t d) = d
    ∧ rcrLoop t (rclLoop t d c).1 (rclLoop t d c).2 = (d, c)
    ∧ (0 < t → t < n.bits → rolLoop t d = rorLoop (n.bits - t) d)
    ∧ (rolLoop t d).cpop = d.cpop ∧ (rorLoop t d).cpop = d.cpop
    ∧ (BitVec.ofBool (rclLoop t d c).2 ++ (rclLoop t d c).1).cpop = (BitVec.ofBool c ++ d).cpop
    ∧ (BitVec.ofBool (rcrLoop t d c).2 ++ (rcrLoop t d c).1).cpop = (BitVec.ofBool c ++ d).cpop

/-- The views of a register (10_state.md R22): `n` bits are its low `n` bits, the high byte is bits 15:8,
and every view is of the same 64 bits. -/
def Obligations.RegisterViews : Prop :=
  ∀ g : GReg, g.word.toNat = g.hi.toNat * 2 ^ 32 + g.lo.toNat
    ∧ (∀ n : OpSize, (g.view n).toNat = g.word.toNat % 2 ^ n.bits)
    ∧ g.highByte.toNat = g.word.toNat / 2 ^ 8 % 2 ^ 8

/-! ## Results: register destinations -/

/-- RCL of a register completes (rclRm8One, rclRm8XOne, rclRm8Cl, rclRm8XCl, rclRm8Imm, rclRm8XImm,
rclRm16One, rclRm16Cl, rclRm16Imm, rclRm32One, rclRm64One, rclRm32Cl, rclRm64Cl, rclRm32Imm, rclRm64Imm):
its destination, CF, OF and RIP (40_rotate_common.md R160 to R171, 41_rcl.md R200). OF at a masked count
above 1 is the free value of assumption log 6. -/
def Obligations.RclRegister : Prop :=
  ∀ (i : Instr) (s : State) (rm : BitVec 3) (p : Place) (m : Nat) (x : BitVec (1 + (view i).row.size.bits)),
    (view i).op = .rcl → (view i).dst = .reg rm → Legacy.lock ∉ (view i).pre →
    p = registerPlace (view i).row rm → m = maskedCountOf (view i) s →
    x = (BitVec.ofBool s.flags.cf ++ readPlace s (view i).row.size p).rotateLeft
      (rotateAmount .rcl (view i).row.size m) →
    ∃ t, exec i s = .next t ∧ readPlace t (view i).row.size p = x.setWidth (view i).row.size.bits
      ∧ t.flags.cf = x.msb ∧ (m = 0 → t.flags = s.flags)
      ∧ (m = 1 → t.flags.of = (x.getLsbD ((view i).row.size.bits - 1) ^^ x.msb))
      ∧ (1 < m → t.flags.of = Config.drawOf s.drawIndex)
      ∧ t.rip = s.ripNext (encode i).length

/-- RCR of a register completes (rcrRm8One, rcrRm8XOne, rcrRm8Cl, rcrRm8XCl, rcrRm8Imm, rcrRm8XImm,
rcrRm16One, rcrRm16Cl, rcrRm16Imm, rcrRm32One, rcrRm64One, rcrRm32Cl, rcrRm64Cl, rcrRm32Imm, rcrRm64Imm):
its destination, CF, OF and RIP (40_rotate_common.md R160 to R171, 42_rcr.md R220). OF at a masked count
above 1 is the free value of assumption log 6. -/
def Obligations.RcrRegister : Prop :=
  ∀ (i : Instr) (s : State) (rm : BitVec 3) (p : Place) (m : Nat) (x : BitVec (1 + (view i).row.size.bits)),
    (view i).op = .rcr → (view i).dst = .reg rm → Legacy.lock ∉ (view i).pre →
    p = registerPlace (view i).row rm → m = maskedCountOf (view i) s →
    x = (BitVec.ofBool s.flags.cf ++ readPlace s (view i).row.size p).rotateRight
      (rotateAmount .rcr (view i).row.size m) →
    ∃ t, exec i s = .next t ∧ readPlace t (view i).row.size p = x.setWidth (view i).row.size.bits
      ∧ t.flags.cf = x.msb ∧ (m = 0 → t.flags = s.flags)
      ∧ (m = 1 → t.flags.of =
        (x.getLsbD ((view i).row.size.bits - 1) ^^ x.getLsbD ((view i).row.size.bits - 2)))
      ∧ (1 < m → t.flags.of = Config.drawOf s.drawIndex)
      ∧ t.rip = s.ripNext (encode i).length

/-- ROL of a register completes (rolRm8One, rolRm8XOne, rolRm8Cl, rolRm8XCl, rolRm8Imm, rolRm8XImm,
rolRm16One, rolRm16Cl, rolRm16Imm, rolRm32One, rolRm64One, rolRm32Cl, rolRm64Cl, rolRm32Imm, rolRm64Imm):
its destination, CF, OF and RIP (40_rotate_common.md R160 to R171, 43_rol.md R240). OF at a masked count
above 1 is the free value of assumption log 6. -/
def Obligations.RolRegister : Prop :=
  ∀ (i : Instr) (s : State) (rm : BitVec 3) (p : Place) (m : Nat) (x : BitVec (view i).row.size.bits),
    (view i).op = .rol → (view i).dst = .reg rm → Legacy.lock ∉ (view i).pre →
    p = registerPlace (view i).row rm → m = maskedCountOf (view i) s →
    x = (readPlace s (view i).row.size p).rotateLeft (rotateAmount .rol (view i).row.size m) →
    ∃ t, exec i s = .next t ∧ readPlace t (view i).row.size p = x
      ∧ t.flags.cf = (if m = 0 then s.flags.cf else x.getLsbD 0) ∧ (m = 0 → t.flags = s.flags)
      ∧ (m = 1 → t.flags.of = (x.msb ^^ x.getLsbD 0))
      ∧ (1 < m → t.flags.of = Config.drawOf s.drawIndex)
      ∧ t.rip = s.ripNext (encode i).length

/-- ROR of a register completes (rorRm8One, rorRm8XOne, rorRm8Cl, rorRm8XCl, rorRm8Imm, rorRm8XImm,
rorRm16One, rorRm16Cl, rorRm16Imm, rorRm32One, rorRm64One, rorRm32Cl, rorRm64Cl, rorRm32Imm, rorRm64Imm):
its destination, CF, OF and RIP (40_rotate_common.md R160 to R171, 44_ror.md R260). OF at a masked count
above 1 is the free value of assumption log 6. -/
def Obligations.RorRegister : Prop :=
  ∀ (i : Instr) (s : State) (rm : BitVec 3) (p : Place) (m : Nat) (x : BitVec (view i).row.size.bits),
    (view i).op = .ror → (view i).dst = .reg rm → Legacy.lock ∉ (view i).pre →
    p = registerPlace (view i).row rm → m = maskedCountOf (view i) s →
    x = (readPlace s (view i).row.size p).rotateRight (rotateAmount .ror (view i).row.size m) →
    ∃ t, exec i s = .next t ∧ readPlace t (view i).row.size p = x
      ∧ t.flags.cf = (if m = 0 then s.flags.cf else x.msb) ∧ (m = 0 → t.flags = s.flags)
      ∧ (m = 1 → t.flags.of = (x.msb ^^ x.getLsbD ((view i).row.size.bits - 2)))
      ∧ (1 < m → t.flags.of = Config.drawOf s.drawIndex)
      ∧ t.rip = s.ripNext (encode i).length

/-- The frame of a register destination, for all 60 constructors: no byte of memory, no other general
register, no segment, control or launch field changes (10_state.md R20, R25). -/
def Obligations.RegisterFrame : Prop :=
  ∀ (i : Instr) (s : State) (rm : BitVec 3), (view i).dst = .reg rm → Legacy.lock ∉ (view i).pre →
    ∃ t, exec i s = .next t ∧ (∀ a, Memory.read t.mem a = Memory.read s.mem a)
      ∧ (∀ q, registerPlace (view i).row rm ≠ .low q → registerPlace (view i).row rm ≠ .high q →
        t.greg q = s.greg q)
      ∧ SameControl s t

/-- What a write through a view leaves of the rest of its register (10_state.md R23, 40_rotate_common.md
R165), for all 60 constructors: 8 and 16 bits keep every other bit, also for AH to BH; 32 bits in 64-bit
mode clear bits 63:32 whatever the count, and outside it leave the free value of assumption log 7. -/
def Obligations.RegisterMerge : Prop :=
  ∀ (i : Instr) (s : State) (rm : BitVec 3) (q : BitVec 4), (view i).dst = .reg rm →
    Legacy.lock ∉ (view i).pre →
    ∃ t, exec i s = .next t
      ∧ (registerPlace (view i).row rm = .low q → (view i).row.size = .b8 →
        (t.greg q).hi = (s.greg q).hi ∧ (t.greg q).lo.extractLsb' 8 24 = (s.greg q).lo.extractLsb' 8 24)
      ∧ (registerPlace (view i).row rm = .high q →
        (t.greg q).hi = (s.greg q).hi ∧ (t.greg q).lo.extractLsb' 16 16 = (s.greg q).lo.extractLsb' 16 16
          ∧ (t.greg q).lo.extractLsb' 0 8 = (s.greg q).lo.extractLsb' 0 8)
      ∧ (registerPlace (view i).row rm = .low q → (view i).row.size = .b16 →
        (t.greg q).hi = (s.greg q).hi ∧ (t.greg q).lo.extractLsb' 16 16 = (s.greg q).lo.extractLsb' 16 16)
      ∧ (registerPlace (view i).row rm = .low q → (view i).row.size = .b32 →
        (t.greg q).hi = if s.mode = .long64 then 0 else Config.drawHigh s.drawIndex)

/-- Which register a register operand names, for every row: a byte operand without REX, the numbers 4 to 7
being AH, CH, DH, BH; with REX always a low byte (10_state.md R24); at the other sizes the view of register
`REX.B : rm` (30_encoding.md R109). -/
def Obligations.ByteRegisters : Prop :=
  (∀ rm : BitVec 3, rm.toNat < 4 → registerPlace .rm8 rm = .low (BitVec.ofNat 4 rm.toNat))
    ∧ (∀ rm : BitVec 3, 4 ≤ rm.toNat → registerPlace .rm8 rm = .high (BitVec.ofNat 4 (rm.toNat - 4)))
    ∧ (∀ (x : Rex) (rm : BitVec 3),
      registerPlace (.rm8x x) rm = .low (BitVec.ofNat 4 (rm.toNat + if x.rxb.b then 8 else 0)))
    ∧ (∀ rm : BitVec 3, registerPlace (.rm16 none) rm = .low (BitVec.ofNat 4 rm.toNat)
      ∧ registerPlace (.rm32 none) rm = .low (BitVec.ofNat 4 rm.toNat))
    ∧ ∀ (y : Rxb) (rm : BitVec 3),
      registerPlace (.rm16 (some y)) rm = .low (BitVec.ofNat 4 (rm.toNat + if y.b then 8 else 0))
      ∧ registerPlace (.rm32 (some y)) rm = .low (BitVec.ofNat 4 (rm.toNat + if y.b then 8 else 0))
      ∧ registerPlace (.rm64 y) rm = .low (BitVec.ofNat 4 (rm.toNat + if y.b then 8 else 0))

/-- With a CL count and a destination in register 1, the count is CL before the instruction, and the
result overwrites the register (40_rotate_common.md R173). The twenty constructors whose count is CL. -/
def Obligations.CountReadFirst : Prop :=
  (∀ (i : Instr) (s : State) (rm : BitVec 3) (p : Place), (view i).count = .cl → (view i).dst = .reg rm →
    p = registerPlace (view i).row rm → p = .low 1 ∨ p = .high 1 → Legacy.lock ∉ (view i).pre →
    ∃ t, exec i s = .next t ∧ readPlace t (view i).row.size p =
      (rotateFunction (view i).op (view i).row.size (readPlace s (view i).row.size p) s.flags.cf
        (s.cl.toNat % if (view i).row.size = .b64 then 64 else 32)).res)
    ∧ ∀ s : State, s.cl = 3 →
      ∃ t, exec (.rolRm8Cl [] (.reg 1)) s = .next t ∧ t.cl = 0x18 ∧ t.flags.cf = false

/-! ## Results: memory destinations -/

/-- A memory operand is accessible when the mode's segment-level checks pass, no alignment check fails and
every byte translates for a write; its bytes are then where they translate to (20_memory.md R62 to R70).
For all 60 constructors. -/
def Obligations.OperandAccessible : Prop :=
  ∀ (i : Instr) (s : State), isMemory i → segmentPasses i s → ¬operandMisaligned i s → operandMapped i s →
    ∃ as, memoryOperand (view i) s = .ok as ∧ as.length = (view i).row.size.bytes
      ∧ ∀ j (h : j < as.length), s.translate (operandLinear i s j) .write = .ok as[j]

/-- RCL of memory completes on an accessible operand (the fifteen constructors of RCL, rclRm8One to
rclRm64Imm): the bytes stored, CF, OF and RIP, and every other byte and register is unchanged
(40_rotate_common.md R160 to R171, 41_rcl.md R200, 20_memory.md R61, R70). OF at a masked count above 1 is the free
value of assumption log 6. -/
def Obligations.RclMemory : Prop :=
  ∀ (i : Instr) (s : State) (as : List Word64) (m : Nat) (x : BitVec (1 + (view i).row.size.bits)),
    (view i).op = .rcl → isMemory i → Legacy.lock ∉ (view i).pre → memoryOperand (view i) s = .ok as →
    m = maskedCountOf (view i) s →
    x = (BitVec.ofBool s.flags.cf ++ readPlace s (view i).row.size (.mem as)).rotateLeft
      (rotateAmount .rcl (view i).row.size m) →
    ∃ t, exec i s = .next t
      ∧ (as.Nodup → Memory.readAll t.mem as =
        bytesOf (view i).row.size (x.setWidth (view i).row.size.bits))
      ∧ t.flags.cf = x.msb ∧ (m = 0 → t.flags = s.flags)
      ∧ (m = 1 → t.flags.of = (x.getLsbD ((view i).row.size.bits - 1) ^^ x.msb))
      ∧ (1 < m → t.flags.of = Config.drawOf s.drawIndex)
      ∧ t.rip = s.ripNext (encode i).length
      ∧ (∀ a, a ∉ as → Memory.read t.mem a = Memory.read s.mem a) ∧ t.regs = s.regs ∧ SameControl s t

/-- RCR of memory completes on an accessible operand (the fifteen constructors of RCR, rcrRm8One to
rcrRm64Imm): the bytes stored, CF, OF and RIP, and every other byte and register is unchanged
(40_rotate_common.md R160 to R171, 42_rcr.md R220, 20_memory.md R61, R70). OF at a masked count above 1 is the free
value of assumption log 6. -/
def Obligations.RcrMemory : Prop :=
  ∀ (i : Instr) (s : State) (as : List Word64) (m : Nat) (x : BitVec (1 + (view i).row.size.bits)),
    (view i).op = .rcr → isMemory i → Legacy.lock ∉ (view i).pre → memoryOperand (view i) s = .ok as →
    m = maskedCountOf (view i) s →
    x = (BitVec.ofBool s.flags.cf ++ readPlace s (view i).row.size (.mem as)).rotateRight
      (rotateAmount .rcr (view i).row.size m) →
    ∃ t, exec i s = .next t
      ∧ (as.Nodup → Memory.readAll t.mem as =
        bytesOf (view i).row.size (x.setWidth (view i).row.size.bits))
      ∧ t.flags.cf = x.msb ∧ (m = 0 → t.flags = s.flags)
      ∧ (m = 1 → t.flags.of =
        (x.getLsbD ((view i).row.size.bits - 1) ^^ x.getLsbD ((view i).row.size.bits - 2)))
      ∧ (1 < m → t.flags.of = Config.drawOf s.drawIndex)
      ∧ t.rip = s.ripNext (encode i).length
      ∧ (∀ a, a ∉ as → Memory.read t.mem a = Memory.read s.mem a) ∧ t.regs = s.regs ∧ SameControl s t

/-- ROL of memory completes on an accessible operand (the fifteen constructors of ROL, rolRm8One to
rolRm64Imm): the bytes stored, CF, OF and RIP, and every other byte and register is unchanged
(40_rotate_common.md R160 to R171, 43_rol.md R240, 20_memory.md R61, R70). OF at a masked count above 1 is the free
value of assumption log 6. -/
def Obligations.RolMemory : Prop :=
  ∀ (i : Instr) (s : State) (as : List Word64) (m : Nat) (x : BitVec (view i).row.size.bits),
    (view i).op = .rol → isMemory i → Legacy.lock ∉ (view i).pre → memoryOperand (view i) s = .ok as →
    m = maskedCountOf (view i) s →
    x = (readPlace s (view i).row.size (.mem as)).rotateLeft (rotateAmount .rol (view i).row.size m) →
    ∃ t, exec i s = .next t
      ∧ (as.Nodup → Memory.readAll t.mem as = bytesOf (view i).row.size x)
      ∧ t.flags.cf = (if m = 0 then s.flags.cf else x.getLsbD 0) ∧ (m = 0 → t.flags = s.flags)
      ∧ (m = 1 → t.flags.of = (x.msb ^^ x.getLsbD 0))
      ∧ (1 < m → t.flags.of = Config.drawOf s.drawIndex)
      ∧ t.rip = s.ripNext (encode i).length
      ∧ (∀ a, a ∉ as → Memory.read t.mem a = Memory.read s.mem a) ∧ t.regs = s.regs ∧ SameControl s t

/-- ROR of memory completes on an accessible operand (the fifteen constructors of ROR, rorRm8One to
rorRm64Imm): the bytes stored, CF, OF and RIP, and every other byte and register is unchanged
(40_rotate_common.md R160 to R171, 44_ror.md R260, 20_memory.md R61, R70). OF at a masked count above 1 is the free
value of assumption log 6. -/
def Obligations.RorMemory : Prop :=
  ∀ (i : Instr) (s : State) (as : List Word64) (m : Nat) (x : BitVec (view i).row.size.bits),
    (view i).op = .ror → isMemory i → Legacy.lock ∉ (view i).pre → memoryOperand (view i) s = .ok as →
    m = maskedCountOf (view i) s →
    x = (readPlace s (view i).row.size (.mem as)).rotateRight (rotateAmount .ror (view i).row.size m) →
    ∃ t, exec i s = .next t
      ∧ (as.Nodup → Memory.readAll t.mem as = bytesOf (view i).row.size x)
      ∧ t.flags.cf = (if m = 0 then s.flags.cf else x.msb) ∧ (m = 0 → t.flags = s.flags)
      ∧ (m = 1 → t.flags.of = (x.msb ^^ x.getLsbD ((view i).row.size.bits - 2)))
      ∧ (1 < m → t.flags.of = Config.drawOf s.drawIndex)
      ∧ t.rip = s.ripNext (encode i).length
      ∧ (∀ a, a ∉ as → Memory.read t.mem a = Memory.read s.mem a) ∧ t.regs = s.regs ∧ SameControl s t

/-- Memory is little-endian (20_memory.md R61): byte `j` of a stored value is its bits `8j + 7` to `8j`,
and the bytes read back as the value. -/
def Obligations.LittleEndian : Prop :=
  ∀ (n : OpSize) (v : BitVec n.bits) (m : List Host.Cell) (as : List Word64),
    as.Nodup → as.length = n.bytes →
    BitVec.ofNat n.bits (littleEndian (Memory.readAll (Memory.writeAll m as (bytesOf n v)) as)) = v
      ∧ ∀ j (h : j < as.length),
        Memory.read (Memory.writeAll m as (bytesOf n v)) as[j] = v.extractLsb' (8 * j) 8

/-! ## Addresses -/

/-- Effective addresses of every form of 32- and 64-bit addressing, with every displacement: sums modulo
`2^A` of the `A`-bit base register `REX.B : base`, the `A`-bit index register `REX.X : index` times
`2^scale` (number 4 adds nothing) and the signed displacement; a displacement alone is relative to
`RIP_next` in 64-bit mode (30_encoding.md R110, R111). -/
def Obligations.EffectiveAddress : Prop :=
  ∀ (s : State) (a : AddrSize) (w : Row) (next : Word64) (b ix : BitVec 3) (sc : BitVec 2) (d : Disp32)
    (d32 : Word32) (rb rx : BitVec 4) (base index : Int),
    rb.toNat = extendedNumber w Rxb.b b → rx.toNat = extendedNumber w Rxb.x ix →
    base = (s.greg rb).word.toNat % 2 ^ a.bits →
    index = (if rx.toNat = 4 then 0 else (s.greg rx).word.toNat % 2 ^ a.bits * 2 ^ sc.toNat) →
    ((effectiveAddress s a w next (.mem b d)).toNat : Int) = (base + disp32Int d) % 2 ^ a.bits
    ∧ ((effectiveAddress s a w next (.sib sc ix b d)).toNat : Int) =
      (base + index + disp32Int d) % 2 ^ a.bits
    ∧ ((effectiveAddress s a w next (.sibAbs sc ix d32)).toNat : Int) = (d32.toInt + index) % 2 ^ a.bits
    ∧ (s.mode = .long64 → ((effectiveAddress s a w next (.abs32 d32)).toNat : Int) =
      (next.toNat + d32.toInt) % 2 ^ a.bits)
    ∧ (s.mode ≠ .long64 → ((effectiveAddress s a w next (.abs32 d32)).toNat : Int) = d32.toInt % 2 ^ a.bits)

/-- 16-bit effective addresses, each of the eight register combinations with every displacement: sums modulo
`2^16` of the low 16 bits of BX, BP, SI, DI (registers 3, 5, 6, 7) and the signed displacement; or a
16-bit displacement alone (30_encoding.md R112). -/
def Obligations.EffectiveAddress16 : Prop :=
  ∀ (s : State) (w : Row) (next : Word64) (d : Disp16) (d16 : BitVec 16) (bx bp si di : Int),
    bx = (s.greg 3).word.toNat % 2 ^ 16 → bp = (s.greg 5).word.toNat % 2 ^ 16 →
    si = (s.greg 6).word.toNat % 2 ^ 16 → di = (s.greg 7).word.toNat % 2 ^ 16 →
    (∀ b : Base16, ((effectiveAddress s .a16 w next (.mem16 b d)).toNat : Int) =
      ((match b with
        | .bxSi => bx + si
        | .bxDi => bx + di
        | .bpSi => bp + si
        | .bpDi => bp + di
        | .si => si
        | .di => di
        | .bp => bp
        | .bx => bx) + disp16Int d) % 2 ^ 16)
    ∧ (effectiveAddress s .a16 w next (.abs16 d16)).toNat = d16.toNat

/-- The segment of a memory operand (30_encoding.md R115): outside 64-bit mode the override, if there is
one; in 64-bit mode only an FS or GS override counts, and the segment is never CS or ES. The override is the
segment prefix among prefixes of different groups. The default segment (R110, R111, R112) is SS for the
16-bit forms with BP, for a base register 5 and for a SIB base register 4 or 5, REX.B included, else DS. -/
def Obligations.SegmentChoice : Prop :=
  ∀ (m : Mode) (v : Rotate),
    (∀ r, m ≠ .long64 → overrideOf v.pre = some r → segmentOf m v = r)
    ∧ (overrideOf v.pre = none → segmentOf m v = defaultSegment v.row v.dst)
    ∧ (m = .long64 → overrideOf v.pre = some .fs → segmentOf m v = .fs)
    ∧ (m = .long64 → overrideOf v.pre = some .gs → segmentOf m v = .gs)
    ∧ (m = .long64 → overrideOf v.pre ≠ some .fs → overrideOf v.pre ≠ some .gs →
      segmentOf m v = defaultSegment v.row v.dst)
    ∧ (m = .long64 → segmentOf m v ≠ .cs ∧ segmentOf m v ≠ .es)
    ∧ (groupsDistinct v.pre = true → ∀ r, overrideOf v.pre = some r ↔ Legacy.seg r ∈ v.pre)
    ∧ (∀ d, defaultSegment v.row (.mem16 .bpSi d) = .ss ∧ defaultSegment v.row (.mem16 .bpDi d) = .ss
      ∧ defaultSegment v.row (.mem16 .bp d) = .ss)
    ∧ (∀ b d, b ≠ .bpSi → b ≠ .bpDi → b ≠ .bp → defaultSegment v.row (.mem16 b d) = .ds)
    ∧ (∀ b d, defaultSegment v.row (.mem b d) = if extendedNumber v.row Rxb.b b = 5 then .ss else .ds)
    ∧ (∀ sc ix b d, defaultSegment v.row (.sib sc ix b d) =
      if extendedNumber v.row Rxb.b b = 4 ∨ extendedNumber v.row Rxb.b b = 5 then .ss else .ds)
    ∧ (∀ d, defaultSegment v.row (.abs16 d) = .ds) ∧ (∀ d, defaultSegment v.row (.abs32 d) = .ds)
    ∧ (∀ sc ix d, defaultSegment v.row (.sibAbs sc ix d) = .ds)

/-- The linear address of byte `j` of a memory operand (20_memory.md R63): in 64-bit mode modulo `2^64`, the
base being 0 for ES, CS, SS and DS and the record's for FS and GS; elsewhere the record's base, modulo
`2^32`. For all 60 constructors. -/
def Obligations.LinearAddress : Prop :=
  ∀ (i : Instr) (s : State) (r : SegReg) (j : Nat), r = operandSegment i s →
    (s.mode = .long64 → r = .es ∨ r = .cs ∨ r = .ss ∨ r = .ds →
      (operandLinear i s j).toNat = ((operandAddress i s).toNat + j) % 2 ^ 64)
    ∧ (s.mode = .long64 → r = .fs →
      (operandLinear i s j).toNat = (s.fs.base.toNat + (operandAddress i s).toNat + j) % 2 ^ 64)
    ∧ (s.mode = .long64 → r = .gs →
      (operandLinear i s j).toNat = (s.gs.base.toNat + (operandAddress i s).toNat + j) % 2 ^ 64)
    ∧ (s.mode ≠ .long64 →
      (operandLinear i s j).toNat = ((s.seg r).base.toNat + (operandAddress i s).toNat + j) % 2 ^ 32)

/-- The memory operand is inside its limit exactly when every byte of it is in one of the segment's ranges of
offsets and none is past offset `2^A - 1` (10_state.md R32, 20_memory.md R63); `A` is 64 in 64-bit mode or 32
with `67`, and elsewhere 16 or 32 by CS.D and `67` (30_encoding.md R108). That the limit is a list of ranges
is the model's own form, assumption log 12. For all 60 constructors. -/
def Obligations.OperandLimit : Prop :=
  ∀ (i : Instr) (s : State) (ea k : Nat), ea = (operandAddress i s).toNat → k = (view i).row.size.bytes →
    (operandInLimit i s = true ↔
      (∀ j < k, ea + j ≤ 2 ^ (s.addressSize (view i)).bits - 1
        ∧ ∃ g ∈ (s.seg (operandSegment i s)).offsets, g.first ≤ ea + j ∧ ea + j ≤ g.last))
    ∧ (s.mode = .long64 → s.addressSize (view i) = if Legacy.addrsize ∈ (view i).pre then .a32 else .a64)
    ∧ (s.mode = .real ∨ s.mode = .v86 →
      s.addressSize (view i) = if Legacy.addrsize ∈ (view i).pre then .a32 else .a16)
    ∧ (s.mode = .prot ∨ s.mode = .compat → s.csD = false →
      s.addressSize (view i) = if Legacy.addrsize ∈ (view i).pre then .a32 else .a16)
    ∧ (s.mode = .prot ∨ s.mode = .compat → s.csD = true →
      s.addressSize (view i) = if Legacy.addrsize ∈ (view i).pre then .a16 else .a32)

/-- Canonical form (20_memory.md R69): bits 63 down to `VA_BITS - 1` are all equal. -/
def Obligations.CanonicalForm : Prop :=
  ∀ (v : VaBits) (la : Word64),
    canonical v la = true ↔ ∀ k, v.width - 1 ≤ k → k < 64 → la.getLsbD k = la.getLsbD (v.width - 1)

/-- With paging off, and in real mode always, the linear address is the physical address for every access
(20_memory.md R67). That paging is off when bit 31 of CR0 is 0 is the model's choice, assumption log 11:
the spec names CR0.PG and gives no position. -/
def Obligations.PagingOff : Prop :=
  ∀ (s : State) (la : Word64) (acc : Access),
    s.mode = .real ∨ s.cr0.getLsbD 31 = false → s.translate la acc = .ok la

/-! ## Flags and RIP -/

/-- RFLAGS as a word (10_state.md R27): bit 1 is 1, bits 3, 5, 15 and 22 to 63 are 0, and the named bits
come back from it. -/
def Obligations.ReservedFlags : Prop :=
  ∀ f : Flags, flagsOfWord (rflagsWord f) = f ∧ (rflagsWord f).getLsbD 1 = true
    ∧ (rflagsWord f).getLsbD 3 = false ∧ (rflagsWord f).getLsbD 5 = false ∧ (rflagsWord f).getLsbD 15 = false
    ∧ ∀ k, 22 ≤ k → (rflagsWord f).getLsbD k = false

/-- A masked count of 0 changes no flag, for all 60 constructors (40_rotate_common.md R166). -/
def Obligations.ZeroCountFlags : Prop :=
  ∀ (i : Instr) (s : State) (p : Place), Legacy.lock ∉ (view i).pre → destination (view i) s = .ok p →
    maskedCountOf (view i) s = 0 →
    ∃ t, exec i s = .next t ∧ rflagsWord t.flags = rflagsWord s.flags

/-- No rotate changes any bit of RFLAGS but CF and OF, whatever the masked count, and the rule's table of
masked counts: 0 rewrites the destination with its own value and keeps CF and OF; 1 writes both; above 1
CF is written, and OF with the free value of assumption log 6 (40_rotate_common.md R170). For all 60
constructors. -/
def Obligations.OtherFlagsKept : Prop :=
  ∀ (i : Instr) (s : State) (p : Place), Legacy.lock ∉ (view i).pre → destination (view i) s = .ok p →
    ∃ t, exec i s = .next t ∧ t.flags.sf = s.flags.sf ∧ t.flags.zf = s.flags.zf ∧ t.flags.af = s.flags.af
      ∧ t.flags.pf = s.flags.pf
      ∧ (∀ k, k ≠ 0 → k ≠ 11 → (rflagsWord t.flags).getLsbD k = (rflagsWord s.flags).getLsbD k)
      ∧ (maskedCountOf (view i) s = 0 → t.flags.cf = s.flags.cf ∧ t.flags.of = s.flags.of
        ∧ (resultAt (view i) p s).res = readPlace s (view i).row.size p)
      ∧ (maskedCountOf (view i) s = 1 →
        t.flags.cf = (resultAt (view i) p s).cf ∧ t.flags.of = (resultAt (view i) p s).of)
      ∧ (1 < maskedCountOf (view i) s →
        t.flags.cf = (resultAt (view i) p s).cf ∧ t.flags.of = Config.drawOf s.drawIndex)

/-- A rotate that completes sets RIP to the address after the instruction, modulo `2^64` in 64-bit mode
and `2^32` elsewhere (40_rotate_common.md R171, 10_state.md R26). That bits 63:32 of RIP are then 0 outside
64-bit mode is the model's choice, assumption log 24. For all 60 constructors. -/
def Obligations.PcNext : Prop :=
  ∀ (i : Instr) (s : State) (p : Place), Legacy.lock ∉ (view i).pre → destination (view i) s = .ok p →
    ∃ t, exec i s = .next t
      ∧ (s.mode = .long64 → t.rip.toNat = (s.rip.toNat + (encode i).length) % 2 ^ 64)
      ∧ (s.mode ≠ .long64 → t.rip.toNat = (s.rip.toNat + (encode i).length) % 2 ^ 32)

/-! ## Exceptions -/

/-- A LOCK prefix is `#UD`, vector 6, no error code, for all 60 constructors, whatever the destination and
the count and before the operand is addressed; bytes that are no rotate are not `#UD` but refused
(60_exceptions.md R301). -/
def Obligations.LockFaults : Prop :=
  (∀ (i : Instr) (s : State), Legacy.lock ∈ (view i).pre →
    exec i s = .fault (.ud s.ip) ∧ faultRecord (.ud s.ip) = ⟨6, "#UD", none, none, s.ip⟩)
    ∧ ∀ (s : State) (why : Reject), s.flags.tf = false →
      decode s.mode s.csD s.fetchWindow.1 = .error (.reject why) → step s = .refused (.undecoded why)

/-- The segment-level faults in protected and compatibility mode (20_memory.md R64): null selector,
non-writable segment (CS always), limit. For all 60 constructors. -/
def Obligations.ProtectedSegmentFaults : Prop :=
  ∀ (i : Instr) (s : State) (r : SegReg), isMemory i → Legacy.lock ∉ (view i).pre →
    s.mode = .prot ∨ s.mode = .compat → r = operandSegment i s →
    (isDataSegment r = true → (s.seg r).null = true → exec i s = .fault (.gp (some 0) s.ip))
    ∧ (r = .cs → exec i s = .fault (.gp (some 0) s.ip))
    ∧ (r ≠ .ss → (s.seg r).writable = false → exec i s = .fault (.gp (some 0) s.ip))
    ∧ (r ≠ .ss → operandInLimit i s = false → exec i s = .fault (.gp (some 0) s.ip))
    ∧ (r = .ss → s.ss.writable = false → operandInLimit i s = true → exec i s = .fault (.gp (some 0) s.ip))
    ∧ (r = .ss → s.ss.writable = true → operandInLimit i s = false → exec i s = .fault (.ss (some 0) s.ip))

/-- The segment-level faults in real and virtual-8086 mode (20_memory.md R65): the limit alone, with no
error code in real mode and 0 in virtual-8086 mode. For all 60 constructors. -/
def Obligations.RealSegmentFaults : Prop :=
  ∀ (i : Instr) (s : State), isMemory i → Legacy.lock ∉ (view i).pre → operandInLimit i s = false →
    (s.mode = .real → operandSegment i s ≠ .ss → exec i s = .fault (.gp none s.ip))
    ∧ (s.mode = .real → operandSegment i s = .ss → exec i s = .fault (.ss none s.ip))
    ∧ (s.mode = .v86 → operandSegment i s ≠ .ss → exec i s = .fault (.gp (some 0) s.ip))
    ∧ (s.mode = .v86 → operandSegment i s = .ss → exec i s = .fault (.ss (some 0) s.ip))

/-- The segment-level faults in 64-bit mode (20_memory.md R66): canonical form, then a non-writable
segment; no limit and no null selector. That an operand in SS that is neither canonical nor writable is
`#SS(0)` is the model's choice, assumption log 15. For all 60 constructors. -/
def Obligations.Long64SegmentFaults : Prop :=
  ∀ (i : Instr) (s : State), isMemory i → Legacy.lock ∉ (view i).pre → s.mode = .long64 →
    (operandSegment i s = .ss → ¬operandCanonical i s → exec i s = .fault (.ss (some 0) s.rip))
    ∧ (operandSegment i s ≠ .ss → ¬operandCanonical i s → exec i s = .fault (.gp (some 0) s.rip))
    ∧ (operandCanonical i s → (s.seg (operandSegment i s)).writable = false →
      exec i s = .fault (.gp (some 0) s.rip))

/-- After the segment-level checks, alignment and paging (20_memory.md R67, R68; 60_exceptions.md R304,
R310, R316): `#AC` alone; `#PF` alone, with the lowest faulting linear address; with both, one of the two,
the choice being the free value of assumption log 8. For all 60 constructors. -/
def Obligations.AlignmentAndPageFaults : Prop :=
  ∀ (i : Instr) (s : State), isMemory i → Legacy.lock ∉ (view i).pre → segmentPasses i s →
    (operandMisaligned i s → operandMapped i s → exec i s = .fault (.ac s.ip))
    ∧ ∀ (j : Nat) (code : Word32), j < (view i).row.size.bytes →
      s.translate (operandLinear i s j) .write = .pageFault code →
      (∀ k < (view i).row.size.bytes, (operandLinear i s k).toNat < (operandLinear i s j).toNat →
        ∃ pa, s.translate (operandLinear i s k) .write = .ok pa) →
      (¬operandMisaligned i s → exec i s = .fault (.pf code (operandLinear i s j) s.ip))
      ∧ (operandMisaligned i s → exec i s = .fault (.ac s.ip)
        ∨ exec i s = .fault (.pf code (operandLinear i s j) s.ip))

/-- A byte rotate never raises `#AC` (60_exceptions.md R316). The 24 constructors of `r/m8` and
`r/m8*`. -/
def Obligations.ByteNeverMisaligned : Prop :=
  ∀ (i : Instr) (s : State) (rip : Word64), (view i).row.size = .b8 → exec i s ≠ .fault (.ac rip)

/-- Which exceptions each mode has, and their error codes (60_exceptions.md R300, R313): in real mode only
`#UD`, `#GP`, `#SS` with no code; elsewhere 0 with `#GP`, `#SS` and `#AC`, the page-fault code with `#PF`;
none with `#UD` in every mode; always with the address of the instruction (R311). A register form raises only `#UD`. For all 60 constructors. -/
def Obligations.FaultKinds : Prop :=
  ∀ (i : Instr) (s : State) (f : Fault), exec i s = .fault f →
    (faultRecord f).rip = s.ip
    ∧ (faultRecord f).vector ∈ [6, 12, 13, 14, 17]
    ∧ (s.mode = .real → (faultRecord f).vector ∈ [6, 12, 13] ∧ (faultRecord f).errorCode = none)
    ∧ (s.mode ≠ .real → (faultRecord f).vector ∈ [12, 13, 17] → (faultRecord f).errorCode = some 0)
    ∧ ((faultRecord f).vector = 6 → (faultRecord f).errorCode = none)
    ∧ ((faultRecord f).vector = 14 → (faultRecord f).errorCode.isSome = true)
    ∧ ((faultRecord f).vector = 6 ↔ Legacy.lock ∈ (view i).pre)
    ∧ ((faultRecord f).faultAddress.isSome = true ↔ (faultRecord f).vector = 14)
    ∧ (∀ rm, (view i).dst = .reg rm → (faultRecord f).vector = 6)

/-- No instruction is refused: every one of the 60 constructors completes or takes an exception
(40_rotate_common.md R172). -/
def Obligations.NeverRefused : Prop :=
  ∀ (i : Instr) (s : State) (r : Refusal), exec i s ≠ .refused r

/-! ## The whole machine -/

/-- No step changes the mode, the privilege level, a segment, a control register or a launch parameter
(10_state.md R20, R33; 60_exceptions.md R330). -/
def Obligations.ControlKept : Prop :=
  ∀ s t : State, step s = .next t → SameControl s t ∧ t.mode = s.mode ∧ t.cpl = s.cpl ∧ t.paging = s.paging

/-- Every step keeps the invariant: memory in its canonical form (the model's own, assumption log 5), TF 0
(60_exceptions.md R331), CS.D 0 in 64-bit mode (10_state.md R33), the instruction pointer 32 bits wide
outside it (R26; its upper half is the model's choice, assumption log 24). -/
def Obligations.InvariantKept : Prop :=
  ∀ s t : State, s.Inv → step s = .next t → t.Inv

/-- The invariant holds after reset, and the state after reset is a well-formed launch
(70_reset_and_hazards.md R350, R351; the reset values are those of assumption log 3). -/
def Obligations.InvariantAtReset : Prop := State.reset.Inv ∧ State.reset.launchOk

/-- The state after reset (10_state.md R36, 70_reset_and_hazards.md R350, which the spec marks as general
knowledge; assumption log 3): the mode, privilege level, RFLAGS, and the first fetch at 0xFFFFFFF0. -/
def Obligations.ResetState : Prop :=
  State.reset.mode = .real ∧ State.reset.cpl = 0 ∧ rflagsWord State.reset.flags = 2
    ∧ State.reset.rip = 0xFFF0 ∧ State.reset.cs.base = 0xFFFF0000 ∧ State.reset.cs.selector = 0xF000
    ∧ State.reset.fetchAddress 0 = .ok 0xFFFFFFF0 ∧ State.reset.cr0 = 0x60000010 ∧ State.reset.efer = 0
    ∧ State.reset.cr2 = 0 ∧ State.reset.cr3 = 0 ∧ State.reset.cr4 = 0 ∧ State.reset.idtrBase = 0
    ∧ State.reset.idtrLimit = 0xFFFF ∧ State.reset.dr6 = 0xFFFF0FF0 ∧ State.reset.dr7 = 0x400
    ∧ ∀ r, r ≠ 0 → r ≠ 2 → (State.reset.greg r).word = 0
end

