-- ==== Sys2Proof/Laws/Decode.lean ====
section
/-! SUPPORT. Small lemmas about the parts of an encoding: each part's bytes read back as the part. -/

namespace Sys2Proof

/-- The parts name the instruction. -/
theorem ofView_view (i : Instr) : ofView (view i) = i := by
  cases i <;> rfl

/-- The instruction has the parts. -/
theorem view_ofView (v : Rotate) : view (ofView v) = v := by
  obtain ⟨op, c, w, pre, dst⟩ := v
  cases op <;> cases c <;> cases w <;> rfl

theorem legacyOf_legacyByte (p : Legacy) : legacyOf (legacyByte p) = some p := by
  cases p with
  | seg r => cases r <;> rfl
  | _ => rfl

theorem legacyByte_legacyOf {b : Byte} {p : Legacy} (h : legacyOf b = some p) : legacyByte p = b := by
  unfold legacyOf at h
  repeat' split at h
  all_goals cases h
  all_goals (next e => rw [e]; rfl)

theorem rexOf_rexByte (x : Rex) : rexOf (rexByte x) = x := by
  obtain ⟨w, r, x, b⟩ := x
  cases w <;> cases r <;> cases x <;> cases b <;> rfl

theorem isRexByte_rexByte (x : Rex) : isRexByte (rexByte x) = true := by
  obtain ⟨w, r, x, b⟩ := x
  cases w <;> cases r <;> cases x <;> cases b <;> rfl

theorem rexByte_rexOf {b : Byte} (h : isRexByte b = true) : rexByte (rexOf b) = b := by
  revert b; decide

theorem opOfDigit_digit (o : RotOp) : opOfDigit o.digit = some o := by
  cases o <;> rfl

theorem digit_opOfDigit {g : BitVec 3} {o : RotOp} (h : opOfDigit g = some o) : o.digit = g := by
  revert g o; decide

theorem base16Of_bits (b : Base16) : base16Of b.bits = b := by
  cases b <;> rfl

theorem bits_base16Of (rm : BitVec 3) : (base16Of rm).bits = rm := by
  revert rm; decide

/-- The opcode byte gives the width and the kind of count, the immediate still to be read. -/
theorem opcodeOf_opcodeByte (c : Count) (w : Row) :
    opcodeOf (opcodeByte c w) = some (decide (w.size ≠ .b8), match c with | .imm _ => Count.imm 0 | c => c) := by
  cases c <;> cases w <;> rfl

/-- The fields of a ModRM byte. -/
theorem modrmByte_fields (mod : BitVec 2) (reg rm : BitVec 3) :
    (modrmByte mod reg rm).extractLsb' 6 2 = mod ∧ (modrmByte mod reg rm).extractLsb' 3 3 = reg
      ∧ (modrmByte mod reg rm).extractLsb' 0 3 = rm := by
  revert mod reg rm; decide

/-- A byte is made of its ModRM fields. -/
theorem modrmByte_of_fields (b : Byte) :
    modrmByte (b.extractLsb' 6 2) (b.extractLsb' 3 3) (b.extractLsb' 0 3) = b := by
  revert b; decide

theorem take16_bytes16 (d : BitVec 16) (bs : List Byte) : take16 (bytes16 d ++ bs) = .ok (d, bs) := by
  simp only [bytes16, take16, List.cons_append, List.nil_append, Except.ok.injEq, Prod.mk.injEq, and_true]
  ext i hi
  simp only [BitVec.getElem_append, BitVec.getElem_extractLsb']
  split
  · simp [BitVec.getLsbD_eq_getElem hi]
  · rw [show 8 + (i - 8) = i by omega]; exact BitVec.getLsbD_eq_getElem hi

theorem take32_bytes32 (d : Word32) (bs : List Byte) : take32 (bytes32 d ++ bs) = .ok (d, bs) := by
  simp only [bytes32, take32, List.cons_append, List.nil_append, Except.ok.injEq, Prod.mk.injEq, and_true]
  ext i hi
  simp only [BitVec.getElem_append, BitVec.getElem_extractLsb']
  repeat' split
  all_goals
    rw [← BitVec.getLsbD_eq_getElem hi]
    congr 1
    omega

theorem bytes16_of_take16 {bs rest : List Byte} {d : BitVec 16} (h : take16 bs = .ok (d, rest)) :
    bs = bytes16 d ++ rest := by
  unfold take16 at h
  split at h
  · next a b r =>
    cases h
    simp only [bytes16, List.cons_append, List.nil_append, List.cons.injEq, and_true]
    exact ⟨BitVec.extractLsb'_append_eq_right.symm, BitVec.extractLsb'_append_eq_left.symm⟩
  · cases h

theorem extract_append {n k : Nat} (x : BitVec n) (y : BitVec k) (st len : Nat) (h : k ≤ st) :
    (x ++ y).extractLsb' st len = x.extractLsb' (st - k) len := by
  refine BitVec.eq_of_getLsbD_eq fun i hi => ?_
  rw [BitVec.getLsbD_extractLsb', BitVec.getLsbD_extractLsb', BitVec.getLsbD_append, if_neg (by omega),
    show st + i - k = st - k + i by omega]

theorem bytes32_of_append (a b c e : Byte) : bytes32 (e ++ c ++ b ++ a) = [a, b, c, e] := by
  simp only [bytes32, List.cons.injEq, and_true]
  refine ⟨BitVec.extractLsb'_append_eq_right, ?_, ?_, ?_⟩
  · exact (extract_append (e ++ c ++ b) a 8 8 (by omega)).trans BitVec.extractLsb'_append_eq_right
  · exact (extract_append (e ++ c ++ b) a 16 8 (by omega)).trans
      ((extract_append (e ++ c) b 8 8 (by omega)).trans BitVec.extractLsb'_append_eq_right)
  · exact (extract_append (e ++ c ++ b) a 24 8 (by omega)).trans
      ((extract_append (e ++ c) b 16 8 (by omega)).trans BitVec.extractLsb'_append_eq_left)

theorem bytes32_of_take32 {bs rest : List Byte} {d : Word32} (h : take32 bs = .ok (d, rest)) :
    bs = bytes32 d ++ rest := by
  unfold take32 at h
  split at h
  · next a b c e r => cases h; rw [bytes32_of_append]; rfl
  · cases h

end Sys2Proof
end

