-- ==== Sys2Proof/Laws/Memory.lean ====
section
/-! SUPPORT. The laws of memory: a read after a write, and that every operation keeps the canonical form. -/

namespace Sys2Proof.Machine

/-! ## One byte -/

theorem read_insert_same (m : List Host.Cell) (a : Word64) (v : Byte) :
    Memory.read (Memory.insert m a v) a = v := by
  induction m with
  | nil => simp [Memory.insert, Memory.read]
  | cons c m ih =>
    simp only [Memory.insert]
    split
    · next h => rw [Memory.read, if_neg (by omega), ih]
    · split <;> simp [Memory.read]

theorem read_insert_other (m : List Host.Cell) {a b : Word64} (v : Byte) (h : b ≠ a) :
    Memory.read (Memory.insert m a v) b = Memory.read m b := by
  have hn : a.toNat ≠ b.toNat := fun e => h (BitVec.eq_of_toNat_eq e.symm)
  induction m with
  | nil => simp [Memory.insert, Memory.read, hn]
  | cons c m ih =>
    simp only [Memory.insert]
    split
    · simp only [Memory.read, ih]
    · split
      · next h1 => simp [Memory.read, hn, h1]
      · simp [Memory.read, hn]

theorem read_filter_same (m : List Host.Cell) (a : Word64) :
    Memory.read (m.filter (fun c => c.1 ≠ a.toNat)) a = 0 := by
  induction m with
  | nil => rfl
  | cons c m ih =>
    by_cases h : c.1 = a.toNat <;> simp_all [Memory.read]

theorem read_filter_other (m : List Host.Cell) {a b : Word64} (h : b ≠ a) :
    Memory.read (m.filter (fun c => c.1 ≠ a.toNat)) b = Memory.read m b := by
  have hn : a.toNat ≠ b.toNat := fun e => h (BitVec.eq_of_toNat_eq e.symm)
  induction m with
  | nil => rfl
  | cons c m ih =>
    by_cases h1 : c.1 = a.toNat
    · simp_all [Memory.read]
    · by_cases h2 : c.1 = b.toNat <;> simp_all [Memory.read]

/-- A byte written is the byte read. -/
@[simp] theorem read_write_same (m : List Host.Cell) (a : Word64) (v : Byte) :
    Memory.read (Memory.write m a v) a = v := by
  unfold Memory.write
  split
  · next h => rw [read_filter_same, h]
  · exact read_insert_same m a v

/-- Every other byte reads as before. -/
theorem read_write_other (m : List Host.Cell) {a b : Word64} (v : Byte) (h : b ≠ a) :
    Memory.read (Memory.write m a v) b = Memory.read m b := by
  unfold Memory.write
  split
  · exact read_filter_other m h
  · exact read_insert_other m v h

/-! ## The canonical form -/

theorem mem_insert {m : List Host.Cell} {a : Word64} {v : Byte} {c : Host.Cell}
    (h : c ∈ Memory.insert m a v) : c = (a.toNat, v) ∨ c ∈ m := by
  induction m with
  | nil => simpa [Memory.insert] using h
  | cons d m ih =>
    simp only [Memory.insert] at h
    split at h
    · rcases List.mem_cons.1 h with h | h
      · exact .inr (by simp [h])
      · exact (ih h).imp id (List.mem_cons_of_mem d)
    · split at h
      · rcases List.mem_cons.1 h with h | h
        · exact .inl h
        · exact .inr (List.mem_cons_of_mem d h)
      · exact (List.mem_cons.1 h).imp id id

theorem wf_insert {m : List Host.Cell} {a : Word64} {v : Byte} (h : Memory.wf m) (hv : v ≠ 0) :
    Memory.wf (Memory.insert m a v) := by
  refine ⟨?_, fun c hc => ?_⟩
  · obtain ⟨hp, -⟩ := h
    induction m with
    | nil => simp [Memory.insert]
    | cons c m ih =>
      obtain ⟨hc, hm⟩ := List.pairwise_cons.1 hp
      simp only [Memory.insert]
      split
      · next hlt =>
        refine List.pairwise_cons.2 ⟨fun d hd => ?_, ih hm⟩
        rcases mem_insert hd with rfl | hd
        · exact hlt
        · exact hc d hd
      · split
        · next he => exact List.pairwise_cons.2 ⟨fun d hd => he ▸ hc d hd, hm⟩
        · next h1 h2 =>
          refine List.pairwise_cons.2 ⟨fun d hd => ?_, hp⟩
          rcases List.mem_cons.1 hd with rfl | hd
          · show a.toNat < d.1; omega
          · have := hc d hd
            show a.toNat < d.1; omega
  · rcases mem_insert hc with rfl | hc
    · exact ⟨a.isLt, hv⟩
    · exact h.2 c hc

/-- A write keeps the canonical form. -/
theorem wf_write {m : List Host.Cell} (a : Word64) (v : Byte) (h : Memory.wf m) :
    Memory.wf (Memory.write m a v) := by
  unfold Memory.write
  split
  · exact ⟨h.1.filter _, fun c hc => h.2 c (List.mem_filter.1 hc).1⟩
  · next hv => exact wf_insert h hv

/-- A write of several bytes keeps the canonical form. -/
theorem wf_writeAll {m : List Host.Cell} (as : List Word64) (vs : List Byte) (h : Memory.wf m) :
    Memory.wf (Memory.writeAll m as vs) := by
  induction as generalizing m vs with
  | nil => cases vs <;> exact h
  | cons a as ih =>
    cases vs with
    | nil => exact h
    | cons v vs => exact ih vs (wf_write a v h)

/-- Placing code keeps the canonical form. -/
theorem wf_placeCode (s : State) {m : List Host.Cell} (j : Nat) (bs : List Byte) (h : Memory.wf m) :
    Memory.wf (s.placeCode j m bs) := by
  induction bs generalizing m j with
  | nil => exact h
  | cons b bs ih =>
    unfold State.placeCode
    split
    · exact h
    · exact ih _ (wf_write _ _ h)

/-- The memory after reset has the canonical form. -/
theorem wf_reset : Memory.wf State.reset.mem :=
  ⟨List.Pairwise.nil, fun _ h => nomatch h⟩

/-! ## Several bytes -/

/-- A byte outside the addresses written reads as before. -/
theorem read_writeAll_other (m : List Host.Cell) (as : List Word64) (vs : List Byte) {b : Word64}
    (h : b ∉ as) : Memory.read (Memory.writeAll m as vs) b = Memory.read m b := by
  induction as generalizing m vs with
  | nil => cases vs <;> rfl
  | cons a as ih =>
    cases vs with
    | nil => rfl
    | cons v vs =>
      simp only [List.mem_cons, not_or] at h
      rw [Memory.writeAll, ih _ _ h.2, read_write_other m v h.1]

/-- Bytes written at different addresses read back as written. -/
theorem readAll_writeAll (m : List Host.Cell) {as : List Word64} {vs : List Byte} (hd : as.Nodup)
    (hl : vs.length = as.length) : Memory.readAll (Memory.writeAll m as vs) as = vs := by
  induction as generalizing m vs with
  | nil => cases vs <;> simp_all [Memory.readAll]
  | cons a as ih =>
    cases vs with
    | nil => simp at hl
    | cons v vs =>
      obtain ⟨ha, hd⟩ := List.nodup_cons.1 hd
      have h := ih (Memory.write m a v) (vs := vs) hd (by simpa using hl)
      simp only [Memory.readAll, List.map_cons, Memory.writeAll] at h ⊢
      rw [read_writeAll_other _ _ _ ha, read_write_same, h]

end Sys2Proof.Machine
end

