-- ==== Sys2Proof/Laws/Ops.lean ====
section
/-! SUPPORT. One lemma per shared operation, saying once what it can do. -/

namespace Sys2Proof.Machine

/-! ## Taking an exception -/

/-- An exception never gives a next state. -/
theorem raise_ne_next (e : Exn) (s t : State) : raise e s ≠ .next t := by
  cases e <;> simp [raise]

/-- An exception is never a refusal. -/
theorem raise_ne_refused (e : Exn) (s : State) (r : Refusal) : raise e s ≠ .refused r := by
  cases e <;> simp [raise]

/-- An exception is a fault whose record holds the address of the faulting instruction. -/
theorem raise_fault (e : Exn) (s : State) : ∃ f, raise e s = .fault f ∧ (faultRecord f).rip = s.ip := by
  cases e <;> exact ⟨_, rfl, rfl⟩

/-! ## Registers -/

/-- A view written reads as written. -/
@[simp] theorem view_put (g : GReg) (u : Word32) (n : OpSize) (v : BitVec n.bits) : (g.put u n v).view n = v := by
  cases n
  · exact BitVec.setWidth_append_eq_right (w := 24) (w' := 8) (a := g.lo.extractLsb' 8 24) (b := v)
  · exact BitVec.setWidth_append_eq_right (w := 16) (w' := 16) (a := g.lo.extractLsb' 16 16) (b := v)
  · rfl
  · exact (BitVec.extractLsb'_append_extractLsb'_eq_extractLsb' (x := v) (start₁ := 0) (len₁ := 32)
      (start₂ := 32) (len₂ := 32) rfl).trans BitVec.extractLsb'_eq_self

/-- A high byte written reads as written. -/
@[simp] theorem highByte_putHigh (g : GReg) (v : Byte) : (g.putHigh v).highByte = v := by
  refine (?_ : BitVec.extractLsb' 8 8 ((g.lo.extractLsb' 16 16 ++ v) ++ g.lo.extractLsb' 0 8) = v)
  ext i hi
  rw [BitVec.getElem_extractLsb', BitVec.getLsbD_append, if_neg (by omega), BitVec.getLsbD_append,
    if_pos (by omega), show 8 + i - 8 = i by omega]
  exact BitVec.getLsbD_eq_getElem hi

/-- 8-, 16-bit and high byte writes keep bits 63:32. -/
@[simp] theorem put_hi (g : GReg) (u : Word32) (n : OpSize) (v : BitVec n.bits) (h : n = .b8 ∨ n = .b16) :
    (g.put u n v).hi = g.hi := by
  rcases h with rfl | rfl <;> rfl

@[simp] theorem putHigh_hi (g : GReg) (v : Byte) : (g.putHigh v).hi = g.hi := rfl

/-- A 32-bit write gives bits 63:32 the value `upperHalf` names. -/
@[simp] theorem put_b32 (g : GReg) (u v : Word32) : g.put u .b32 v = ⟨u, v⟩ := rfl

/-! ## Bytes of a value -/

@[simp] theorem bytesOf_length (n : OpSize) (v : BitVec n.bits) : (bytesOf n v).length = n.bytes := by
  simp [bytesOf]

/-- Byte `j` of a value is its bits `8j + 7` to `8j`. -/
theorem bytesOf_getElem (n : OpSize) (v : BitVec n.bits) (j : Nat) (h : j < (bytesOf n v).length) :
    (bytesOf n v)[j] = v.extractLsb' (8 * j) 8 := by
  simp [bytesOf]

/-! ## Linear addresses -/

@[simp] theorem linears_length (s : State) (r : SegReg) (ea : Word64) (k : Nat) :
    (s.linears r ea k).length = k := by
  simp [State.linears]

theorem mem_linears (s : State) (r : SegReg) (ea la : Word64) (k : Nat) :
    la ∈ s.linears r ea k ↔ ∃ j < k, s.linear r ea j = la := by
  simp [State.linears]

/-- Outside 64-bit mode an address is 32 bits wide. -/
theorem narrow_lt {s : State} (h : s.mode ≠ .long64) (a : Word64) : (s.narrow a).toNat < 2 ^ 32 := by
  unfold State.narrow
  rw [if_neg h, BitVec.toNat_setWidth]
  exact Nat.lt_of_le_of_lt (Nat.mod_le _ _) (a.setWidth 32).isLt

/-- In 64-bit mode an address keeps its 64 bits. -/
theorem narrow_long64 {s : State} (h : s.mode = .long64) (a : Word64) : s.narrow a = a := by
  unfold State.narrow
  rw [if_pos h]

/-! ## Translation -/

/-- With paging off a linear address is the physical address. -/
theorem translate_off {s : State} (h : s.paging = false) (la : Word64) (acc : Access) :
    s.translate la acc = .ok la := by
  unfold State.translate
  rw [h]
  rfl

/-- With no page fault there is a physical address for every byte. -/
theorem physicals_length {s : State} {acc : Access} {las : List Word64} (h : s.pageFaults acc las = []) :
    (s.physicals acc las).length = las.length := by
  induction las with
  | nil => rfl
  | cons la las ih =>
    unfold State.pageFaults at h
    unfold State.physicals
    split at h
    · rw [List.length_cons, List.length_cons, ih h]
    · cases h

/-- The page faults of a list are those of its members. -/
theorem mem_pageFaults (s : State) (acc : Access) (las : List Word64) (la : Word64) (code : Word32) :
    (la, code) ∈ s.pageFaults acc las ↔ la ∈ las ∧ s.translate la acc = .pageFault code := by
  induction las with
  | nil => simp [State.pageFaults]
  | cons l las ih =>
    unfold State.pageFaults
    split
    · next pa h =>
      rw [ih]
      constructor
      · exact fun ⟨h1, h2⟩ => ⟨List.mem_cons_of_mem _ h1, h2⟩
      · rintro ⟨h1, h2⟩
        rcases List.mem_cons.1 h1 with rfl | h1
        · rw [h] at h2; cases h2
        · exact ⟨h1, h2⟩
    · next c h =>
      simp only [List.mem_cons, ih, Prod.mk.injEq]
      constructor
      · rintro (⟨rfl, rfl⟩ | ⟨h1, h2⟩)
        · exact ⟨.inl rfl, h⟩
        · exact ⟨.inr h1, h2⟩
      · rintro ⟨rfl | h1, h2⟩
        · rw [h] at h2; cases h2; exact .inl ⟨rfl, rfl⟩
        · exact .inr ⟨h1, h2⟩

/-- No page fault is lower than the lowest. -/
theorem lowestFault_le {fs : List (Word64 × Word32)} {f : Word64 × Word32} (h : lowestFault fs = some f) :
    f ∈ fs ∧ ∀ g ∈ fs, f.1.toNat ≤ g.1.toNat := by
  induction fs generalizing f with
  | nil => cases h
  | cons a fs ih =>
    unfold lowestFault at h
    split at h
    · next hn =>
      cases h
      refine ⟨List.mem_cons_self, fun g hg => ?_⟩
      rcases List.mem_cons.1 hg with rfl | hg
      · exact Nat.le_refl _
      · cases fs with
        | nil => cases hg
        | cons b bs =>
          unfold lowestFault at hn
          split at hn
          · cases hn
          · split at hn <;> cases hn
    · next b hb =>
      obtain ⟨h1, h2⟩ := ih hb
      split at h
      · next hlt =>
        cases h
        refine ⟨List.mem_cons_of_mem _ h1, fun g hg => ?_⟩
        rcases List.mem_cons.1 hg with rfl | hg
        · exact Nat.le_of_lt (by simpa [BitVec.ult] using hlt)
        · exact h2 g hg
      · next hge =>
        cases h
        refine ⟨List.mem_cons_self, fun g hg => ?_⟩
        rcases List.mem_cons.1 hg with rfl | hg
        · exact Nat.le_refl _
        · have : a.1.toNat ≤ b.1.toNat := by simpa [BitVec.ult] using hge
          exact Nat.le_trans this (h2 g hg)

/-- There is a lowest fault unless there is none. -/
theorem lowestFault_none {fs : List (Word64 × Word32)} : lowestFault fs = none ↔ fs = [] := by
  cases fs with
  | nil => simp [lowestFault]
  | cons a fs =>
    simp only [reduceCtorEq, iff_false]
    unfold lowestFault
    split
    · simp
    · split <;> simp

/-! ## The checks of a memory operand -/

/-- An operand that passes has passed every check, and its bytes are where they translate to. -/
theorem operandBytes_ok {s : State} {r : SegReg} {a : AddrSize} {ea : Word64} {k : Nat} {as : List Word64}
    (h : s.operandBytes r a ea k = .ok as) :
    s.segmentExn r a ea k = none ∧ s.accessExn (s.linears r ea k) (s.linear r ea 0) k = none
      ∧ as = s.physicals .write (s.linears r ea k) := by
  unfold State.operandBytes at h
  split at h
  · cases h
  · next h1 =>
    split at h
    · cases h
    · next h2 => cases h; exact ⟨h1, h2, rfl⟩

/-- An operand that passes the alignment and page checks is aligned where it must be and has no page
fault. -/
theorem accessExn_none {s : State} {las : List Word64} {la : Word64} {k : Nat}
    (h : s.accessExn las la k = none) : s.misaligned la k = false ∧ s.pageFaults .write las = [] := by
  unfold State.accessExn at h
  split at h
  · next h1 h2 => exact ⟨h1, lowestFault_none.1 h2⟩
  · cases h
  · cases h
  · split at h <;> cases h

/-- An operand has as many addresses as bytes. -/
theorem operandBytes_length {s : State} {r : SegReg} {a : AddrSize} {ea : Word64} {k : Nat}
    {as : List Word64} (h : s.operandBytes r a ea k = .ok as) : as.length = k := by
  obtain ⟨-, h2, rfl⟩ := operandBytes_ok h
  rw [physicals_length (accessExn_none h2).2, linears_length]

/-- An operand that fails takes the segment-level exception, or else that of the alignment and page
checks. -/
theorem operandBytes_error {s : State} {r : SegReg} {a : AddrSize} {ea : Word64} {k : Nat} {e : Exn}
    (h : s.operandBytes r a ea k = .error e) :
    s.segmentExn r a ea k = some e
      ∨ s.segmentExn r a ea k = none ∧ s.accessExn (s.linears r ea k) (s.linear r ea 0) k = some e := by
  unfold State.operandBytes at h
  split at h
  · next h1 => cases h; exact .inl h1
  · next h1 =>
    split at h
    · next h2 => cases h; exact .inr ⟨h1, h2⟩
    · cases h

/-- The segment-level checks raise only `#GP` and `#SS`. -/
theorem segmentExn_cases {s : State} {r : SegReg} {a : AddrSize} {ea : Word64} {k : Nat} {e : Exn}
    (h : s.segmentExn r a ea k = some e) : e = .gp ∨ e = .ss ∧ r = .ss := by
  have hl : limitExn r = .gp ∨ limitExn r = .ss ∧ r = .ss := by cases r <;> simp [limitExn]
  unfold State.segmentExn at h
  split at h <;> (try unfold State.segmentExn.protectedExn at h) <;>
    (repeat' split at h) <;> cases h <;> simp_all

/-- The alignment and page checks raise only `#AC` and `#PF`. -/
theorem accessExn_cases {s : State} {las : List Word64} {la : Word64} {k : Nat} {e : Exn}
    (h : s.accessExn las la k = some e) :
    e = .ac ∧ s.misaligned la k = true
      ∨ ∃ f, lowestFault (s.pageFaults .write las) = some f ∧ e = .pf f.2 f.1 := by
  unfold State.accessExn at h
  split at h
  · cases h
  · next h1 _ => cases h; exact .inl ⟨rfl, h1⟩
  · next f h1 h2 => cases h; exact .inr ⟨f, h2, rfl⟩
  · next f h1 h2 =>
    split at h
    · cases h; exact .inl ⟨rfl, h1⟩
    · cases h; exact .inr ⟨f, h2, rfl⟩

/-! ## Fetch -/

/-- Bytes that can be fetched stand at the front of what is fetched. -/
theorem fetchFrom_append (s : State) (j : Nat) (bs : List Byte) (n : Nat)
    (h : ∀ k (hk : k < bs.length), ∃ pa, s.fetchAddress (j + k) = .ok pa ∧ Memory.read s.mem pa = bs[k]) :
    (s.fetchFrom j (bs.length + n)).1 = bs ++ (s.fetchFrom (j + bs.length) n).1 := by
  induction bs generalizing j with
  | nil => simp
  | cons b bs ih =>
    obtain ⟨pa, h1, h2⟩ := h 0 (Nat.zero_lt_succ _)
    simp only [Nat.add_zero, List.getElem_cons_zero] at h1 h2
    have h3 := ih (j + 1) (fun k hk => by
      obtain ⟨pa, h4, h5⟩ := h (k + 1) (Nat.succ_lt_succ hk)
      refine ⟨pa, ?_, by simpa using h5⟩
      rw [← h4]; congr 1; omega)
    rw [show (b :: bs).length + n = (bs.length + n) + 1 by simp; omega]
    conv_lhs => unfold State.fetchFrom
    rw [h1]
    simp only [h2, h3, List.cons_append, List.length_cons, show j + 1 + bs.length = j + (bs.length + 1) by omega]

end Sys2Proof.Machine
end

