-- ==== Sys2Proof/Laws/PerInstr.lean ====
section
/-! SUPPORT. Statements made per instruction, one lemma per constructor. -/

namespace Sys2Proof.Laws

/-- An instruction is the one its parts name: no field of it is lost. -/
def Shape.Statement (i : Instr) : Prop := ofView (view i) = i

theorem Shape.rclRm8One (pre : List Legacy) (dst : Rm) :
    Shape.Statement (.rclRm8One pre dst) := rfl
theorem Shape.rclRm8XOne (pre : List Legacy) (rex : Rex) (dst : Rm) :
    Shape.Statement (.rclRm8XOne pre rex dst) := rfl
theorem Shape.rclRm8Cl (pre : List Legacy) (dst : Rm) :
    Shape.Statement (.rclRm8Cl pre dst) := rfl
theorem Shape.rclRm8XCl (pre : List Legacy) (rex : Rex) (dst : Rm) :
    Shape.Statement (.rclRm8XCl pre rex dst) := rfl
theorem Shape.rclRm8Imm (pre : List Legacy) (dst : Rm) (imm : Byte) :
    Shape.Statement (.rclRm8Imm pre dst imm) := rfl
theorem Shape.rclRm8XImm (pre : List Legacy) (rex : Rex) (dst : Rm) (imm : Byte) :
    Shape.Statement (.rclRm8XImm pre rex dst imm) := rfl
theorem Shape.rclRm16One (pre : List Legacy) (rex : Option Rxb) (dst : Rm) :
    Shape.Statement (.rclRm16One pre rex dst) := rfl
theorem Shape.rclRm16Cl (pre : List Legacy) (rex : Option Rxb) (dst : Rm) :
    Shape.Statement (.rclRm16Cl pre rex dst) := rfl
theorem Shape.rclRm16Imm (pre : List Legacy) (rex : Option Rxb) (dst : Rm) (imm : Byte) :
    Shape.Statement (.rclRm16Imm pre rex dst imm) := rfl
theorem Shape.rclRm32One (pre : List Legacy) (rex : Option Rxb) (dst : Rm) :
    Shape.Statement (.rclRm32One pre rex dst) := rfl
theorem Shape.rclRm64One (pre : List Legacy) (rex : Rxb) (dst : Rm) :
    Shape.Statement (.rclRm64One pre rex dst) := rfl
theorem Shape.rclRm32Cl (pre : List Legacy) (rex : Option Rxb) (dst : Rm) :
    Shape.Statement (.rclRm32Cl pre rex dst) := rfl
theorem Shape.rclRm64Cl (pre : List Legacy) (rex : Rxb) (dst : Rm) :
    Shape.Statement (.rclRm64Cl pre rex dst) := rfl
theorem Shape.rclRm32Imm (pre : List Legacy) (rex : Option Rxb) (dst : Rm) (imm : Byte) :
    Shape.Statement (.rclRm32Imm pre rex dst imm) := rfl
theorem Shape.rclRm64Imm (pre : List Legacy) (rex : Rxb) (dst : Rm) (imm : Byte) :
    Shape.Statement (.rclRm64Imm pre rex dst imm) := rfl
theorem Shape.rcrRm8One (pre : List Legacy) (dst : Rm) :
    Shape.Statement (.rcrRm8One pre dst) := rfl
theorem Shape.rcrRm8XOne (pre : List Legacy) (rex : Rex) (dst : Rm) :
    Shape.Statement (.rcrRm8XOne pre rex dst) := rfl
theorem Shape.rcrRm8Cl (pre : List Legacy) (dst : Rm) :
    Shape.Statement (.rcrRm8Cl pre dst) := rfl
theorem Shape.rcrRm8XCl (pre : List Legacy) (rex : Rex) (dst : Rm) :
    Shape.Statement (.rcrRm8XCl pre rex dst) := rfl
theorem Shape.rcrRm8Imm (pre : List Legacy) (dst : Rm) (imm : Byte) :
    Shape.Statement (.rcrRm8Imm pre dst imm) := rfl
theorem Shape.rcrRm8XImm (pre : List Legacy) (rex : Rex) (dst : Rm) (imm : Byte) :
    Shape.Statement (.rcrRm8XImm pre rex dst imm) := rfl
theorem Shape.rcrRm16One (pre : List Legacy) (rex : Option Rxb) (dst : Rm) :
    Shape.Statement (.rcrRm16One pre rex dst) := rfl
theorem Shape.rcrRm16Cl (pre : List Legacy) (rex : Option Rxb) (dst : Rm) :
    Shape.Statement (.rcrRm16Cl pre rex dst) := rfl
theorem Shape.rcrRm16Imm (pre : List Legacy) (rex : Option Rxb) (dst : Rm) (imm : Byte) :
    Shape.Statement (.rcrRm16Imm pre rex dst imm) := rfl
theorem Shape.rcrRm32One (pre : List Legacy) (rex : Option Rxb) (dst : Rm) :
    Shape.Statement (.rcrRm32One pre rex dst) := rfl
theorem Shape.rcrRm64One (pre : List Legacy) (rex : Rxb) (dst : Rm) :
    Shape.Statement (.rcrRm64One pre rex dst) := rfl
theorem Shape.rcrRm32Cl (pre : List Legacy) (rex : Option Rxb) (dst : Rm) :
    Shape.Statement (.rcrRm32Cl pre rex dst) := rfl
theorem Shape.rcrRm64Cl (pre : List Legacy) (rex : Rxb) (dst : Rm) :
    Shape.Statement (.rcrRm64Cl pre rex dst) := rfl
theorem Shape.rcrRm32Imm (pre : List Legacy) (rex : Option Rxb) (dst : Rm) (imm : Byte) :
    Shape.Statement (.rcrRm32Imm pre rex dst imm) := rfl
theorem Shape.rcrRm64Imm (pre : List Legacy) (rex : Rxb) (dst : Rm) (imm : Byte) :
    Shape.Statement (.rcrRm64Imm pre rex dst imm) := rfl
theorem Shape.rolRm8One (pre : List Legacy) (dst : Rm) :
    Shape.Statement (.rolRm8One pre dst) := rfl
theorem Shape.rolRm8XOne (pre : List Legacy) (rex : Rex) (dst : Rm) :
    Shape.Statement (.rolRm8XOne pre rex dst) := rfl
theorem Shape.rolRm8Cl (pre : List Legacy) (dst : Rm) :
    Shape.Statement (.rolRm8Cl pre dst) := rfl
theorem Shape.rolRm8XCl (pre : List Legacy) (rex : Rex) (dst : Rm) :
    Shape.Statement (.rolRm8XCl pre rex dst) := rfl
theorem Shape.rolRm8Imm (pre : List Legacy) (dst : Rm) (imm : Byte) :
    Shape.Statement (.rolRm8Imm pre dst imm) := rfl
theorem Shape.rolRm8XImm (pre : List Legacy) (rex : Rex) (dst : Rm) (imm : Byte) :
    Shape.Statement (.rolRm8XImm pre rex dst imm) := rfl
theorem Shape.rolRm16One (pre : List Legacy) (rex : Option Rxb) (dst : Rm) :
    Shape.Statement (.rolRm16One pre rex dst) := rfl
theorem Shape.rolRm16Cl (pre : List Legacy) (rex : Option Rxb) (dst : Rm) :
    Shape.Statement (.rolRm16Cl pre rex dst) := rfl
theorem Shape.rolRm16Imm (pre : List Legacy) (rex : Option Rxb) (dst : Rm) (imm : Byte) :
    Shape.Statement (.rolRm16Imm pre rex dst imm) := rfl
theorem Shape.rolRm32One (pre : List Legacy) (rex : Option Rxb) (dst : Rm) :
    Shape.Statement (.rolRm32One pre rex dst) := rfl
theorem Shape.rolRm64One (pre : List Legacy) (rex : Rxb) (dst : Rm) :
    Shape.Statement (.rolRm64One pre rex dst) := rfl
theorem Shape.rolRm32Cl (pre : List Legacy) (rex : Option Rxb) (dst : Rm) :
    Shape.Statement (.rolRm32Cl pre rex dst) := rfl
theorem Shape.rolRm64Cl (pre : List Legacy) (rex : Rxb) (dst : Rm) :
    Shape.Statement (.rolRm64Cl pre rex dst) := rfl
theorem Shape.rolRm32Imm (pre : List Legacy) (rex : Option Rxb) (dst : Rm) (imm : Byte) :
    Shape.Statement (.rolRm32Imm pre rex dst imm) := rfl
theorem Shape.rolRm64Imm (pre : List Legacy) (rex : Rxb) (dst : Rm) (imm : Byte) :
    Shape.Statement (.rolRm64Imm pre rex dst imm) := rfl
theorem Shape.rorRm8One (pre : List Legacy) (dst : Rm) :
    Shape.Statement (.rorRm8One pre dst) := rfl
theorem Shape.rorRm8XOne (pre : List Legacy) (rex : Rex) (dst : Rm) :
    Shape.Statement (.rorRm8XOne pre rex dst) := rfl
theorem Shape.rorRm8Cl (pre : List Legacy) (dst : Rm) :
    Shape.Statement (.rorRm8Cl pre dst) := rfl
theorem Shape.rorRm8XCl (pre : List Legacy) (rex : Rex) (dst : Rm) :
    Shape.Statement (.rorRm8XCl pre rex dst) := rfl
theorem Shape.rorRm8Imm (pre : List Legacy) (dst : Rm) (imm : Byte) :
    Shape.Statement (.rorRm8Imm pre dst imm) := rfl
theorem Shape.rorRm8XImm (pre : List Legacy) (rex : Rex) (dst : Rm) (imm : Byte) :
    Shape.Statement (.rorRm8XImm pre rex dst imm) := rfl
theorem Shape.rorRm16One (pre : List Legacy) (rex : Option Rxb) (dst : Rm) :
    Shape.Statement (.rorRm16One pre rex dst) := rfl
theorem Shape.rorRm16Cl (pre : List Legacy) (rex : Option Rxb) (dst : Rm) :
    Shape.Statement (.rorRm16Cl pre rex dst) := rfl
theorem Shape.rorRm16Imm (pre : List Legacy) (rex : Option Rxb) (dst : Rm) (imm : Byte) :
    Shape.Statement (.rorRm16Imm pre rex dst imm) := rfl
theorem Shape.rorRm32One (pre : List Legacy) (rex : Option Rxb) (dst : Rm) :
    Shape.Statement (.rorRm32One pre rex dst) := rfl
theorem Shape.rorRm64One (pre : List Legacy) (rex : Rxb) (dst : Rm) :
    Shape.Statement (.rorRm64One pre rex dst) := rfl
theorem Shape.rorRm32Cl (pre : List Legacy) (rex : Option Rxb) (dst : Rm) :
    Shape.Statement (.rorRm32Cl pre rex dst) := rfl
theorem Shape.rorRm64Cl (pre : List Legacy) (rex : Rxb) (dst : Rm) :
    Shape.Statement (.rorRm64Cl pre rex dst) := rfl
theorem Shape.rorRm32Imm (pre : List Legacy) (rex : Option Rxb) (dst : Rm) (imm : Byte) :
    Shape.Statement (.rorRm32Imm pre rex dst imm) := rfl
theorem Shape.rorRm64Imm (pre : List Legacy) (rex : Rxb) (dst : Rm) (imm : Byte) :
    Shape.Statement (.rorRm64Imm pre rex dst imm) := rfl

end Sys2Proof.Laws
end

