-- ==== Sys2Proof/Laws/State.lean ====
section
/-! SUPPORT. One lemma per field and per state update: what an update leaves, so that no later proof
unfolds a record update. -/

namespace Sys2Proof.Machine

/-! ## `setGreg` -/

@[simp] theorem setGreg_rip (s : State) (r : BitVec 4) (g : GReg) : (s.setGreg r g).rip = s.rip := rfl
@[simp] theorem setGreg_flags (s : State) (r : BitVec 4) (g : GReg) : (s.setGreg r g).flags = s.flags := rfl
@[simp] theorem setGreg_es (s : State) (r : BitVec 4) (g : GReg) : (s.setGreg r g).es = s.es := rfl
@[simp] theorem setGreg_cs (s : State) (r : BitVec 4) (g : GReg) : (s.setGreg r g).cs = s.cs := rfl
@[simp] theorem setGreg_ss (s : State) (r : BitVec 4) (g : GReg) : (s.setGreg r g).ss = s.ss := rfl
@[simp] theorem setGreg_ds (s : State) (r : BitVec 4) (g : GReg) : (s.setGreg r g).ds = s.ds := rfl
@[simp] theorem setGreg_fs (s : State) (r : BitVec 4) (g : GReg) : (s.setGreg r g).fs = s.fs := rfl
@[simp] theorem setGreg_gs (s : State) (r : BitVec 4) (g : GReg) : (s.setGreg r g).gs = s.gs := rfl
@[simp] theorem setGreg_csL (s : State) (r : BitVec 4) (g : GReg) : (s.setGreg r g).csL = s.csL := rfl
@[simp] theorem setGreg_csD (s : State) (r : BitVec 4) (g : GReg) : (s.setGreg r g).csD = s.csD := rfl
@[simp] theorem setGreg_cr0 (s : State) (r : BitVec 4) (g : GReg) : (s.setGreg r g).cr0 = s.cr0 := rfl
@[simp] theorem setGreg_cr2 (s : State) (r : BitVec 4) (g : GReg) : (s.setGreg r g).cr2 = s.cr2 := rfl
@[simp] theorem setGreg_cr3 (s : State) (r : BitVec 4) (g : GReg) : (s.setGreg r g).cr3 = s.cr3 := rfl
@[simp] theorem setGreg_cr4 (s : State) (r : BitVec 4) (g : GReg) : (s.setGreg r g).cr4 = s.cr4 := rfl
@[simp] theorem setGreg_efer (s : State) (r : BitVec 4) (g : GReg) : (s.setGreg r g).efer = s.efer := rfl
@[simp] theorem setGreg_idtrBase (s : State) (r : BitVec 4) (g : GReg) : (s.setGreg r g).idtrBase = s.idtrBase := rfl
@[simp] theorem setGreg_idtrLimit (s : State) (r : BitVec 4) (g : GReg) : (s.setGreg r g).idtrLimit = s.idtrLimit := rfl
@[simp] theorem setGreg_dr6 (s : State) (r : BitVec 4) (g : GReg) : (s.setGreg r g).dr6 = s.dr6 := rfl
@[simp] theorem setGreg_dr7 (s : State) (r : BitVec 4) (g : GReg) : (s.setGreg r g).dr7 = s.dr7 := rfl
@[simp] theorem setGreg_translation (s : State) (r : BitVec 4) (g : GReg) : (s.setGreg r g).translation = s.translation := rfl
@[simp] theorem setGreg_vaBits (s : State) (r : BitVec 4) (g : GReg) : (s.setGreg r g).vaBits = s.vaBits := rfl
@[simp] theorem setGreg_mem (s : State) (r : BitVec 4) (g : GReg) : (s.setGreg r g).mem = s.mem := rfl
@[simp] theorem setGreg_drawIndex (s : State) (r : BitVec 4) (g : GReg) : (s.setGreg r g).drawIndex = s.drawIndex := rfl

@[simp] theorem setGreg_regs (s : State) (r : BitVec 4) (g : GReg) :
    (s.setGreg r g).regs = s.regs.set r.toNat g r.isLt := rfl

/-- The register written reads as written. -/
@[simp] theorem setGreg_greg (s : State) (r : BitVec 4) (g : GReg) : (s.setGreg r g).greg r = g := by
  simp [State.setGreg, State.greg]

/-- Every other register reads as before. -/
theorem setGreg_greg_other (s : State) {r q : BitVec 4} (g : GReg) (h : q ≠ r) :
    (s.setGreg r g).greg q = s.greg q := by
  simp only [State.setGreg, State.greg]
  exact Vector.getElem_set_ne _ _ (fun e => h (BitVec.eq_of_toNat_eq e.symm))

/-! ## `writePlace`, of a register and of memory -/

@[simp] theorem writePlace_rip (s : State) (n : OpSize) (v : BitVec n.bits) (p : Place) :
    (writePlace s n v p).rip = s.rip := by cases p <;> rfl
@[simp] theorem writePlace_flags (s : State) (n : OpSize) (v : BitVec n.bits) (p : Place) :
    (writePlace s n v p).flags = s.flags := by cases p <;> rfl
@[simp] theorem writePlace_es (s : State) (n : OpSize) (v : BitVec n.bits) (p : Place) :
    (writePlace s n v p).es = s.es := by cases p <;> rfl
@[simp] theorem writePlace_cs (s : State) (n : OpSize) (v : BitVec n.bits) (p : Place) :
    (writePlace s n v p).cs = s.cs := by cases p <;> rfl
@[simp] theorem writePlace_ss (s : State) (n : OpSize) (v : BitVec n.bits) (p : Place) :
    (writePlace s n v p).ss = s.ss := by cases p <;> rfl
@[simp] theorem writePlace_ds (s : State) (n : OpSize) (v : BitVec n.bits) (p : Place) :
    (writePlace s n v p).ds = s.ds := by cases p <;> rfl
@[simp] theorem writePlace_fs (s : State) (n : OpSize) (v : BitVec n.bits) (p : Place) :
    (writePlace s n v p).fs = s.fs := by cases p <;> rfl
@[simp] theorem writePlace_gs (s : State) (n : OpSize) (v : BitVec n.bits) (p : Place) :
    (writePlace s n v p).gs = s.gs := by cases p <;> rfl
@[simp] theorem writePlace_csL (s : State) (n : OpSize) (v : BitVec n.bits) (p : Place) :
    (writePlace s n v p).csL = s.csL := by cases p <;> rfl
@[simp] theorem writePlace_csD (s : State) (n : OpSize) (v : BitVec n.bits) (p : Place) :
    (writePlace s n v p).csD = s.csD := by cases p <;> rfl
@[simp] theorem writePlace_cr0 (s : State) (n : OpSize) (v : BitVec n.bits) (p : Place) :
    (writePlace s n v p).cr0 = s.cr0 := by cases p <;> rfl
@[simp] theorem writePlace_cr2 (s : State) (n : OpSize) (v : BitVec n.bits) (p : Place) :
    (writePlace s n v p).cr2 = s.cr2 := by cases p <;> rfl
@[simp] theorem writePlace_cr3 (s : State) (n : OpSize) (v : BitVec n.bits) (p : Place) :
    (writePlace s n v p).cr3 = s.cr3 := by cases p <;> rfl
@[simp] theorem writePlace_cr4 (s : State) (n : OpSize) (v : BitVec n.bits) (p : Place) :
    (writePlace s n v p).cr4 = s.cr4 := by cases p <;> rfl
@[simp] theorem writePlace_efer (s : State) (n : OpSize) (v : BitVec n.bits) (p : Place) :
    (writePlace s n v p).efer = s.efer := by cases p <;> rfl
@[simp] theorem writePlace_idtrBase (s : State) (n : OpSize) (v : BitVec n.bits) (p : Place) :
    (writePlace s n v p).idtrBase = s.idtrBase := by cases p <;> rfl
@[simp] theorem writePlace_idtrLimit (s : State) (n : OpSize) (v : BitVec n.bits) (p : Place) :
    (writePlace s n v p).idtrLimit = s.idtrLimit := by cases p <;> rfl
@[simp] theorem writePlace_dr6 (s : State) (n : OpSize) (v : BitVec n.bits) (p : Place) :
    (writePlace s n v p).dr6 = s.dr6 := by cases p <;> rfl
@[simp] theorem writePlace_dr7 (s : State) (n : OpSize) (v : BitVec n.bits) (p : Place) :
    (writePlace s n v p).dr7 = s.dr7 := by cases p <;> rfl
@[simp] theorem writePlace_translation (s : State) (n : OpSize) (v : BitVec n.bits) (p : Place) :
    (writePlace s n v p).translation = s.translation := by cases p <;> rfl
@[simp] theorem writePlace_vaBits (s : State) (n : OpSize) (v : BitVec n.bits) (p : Place) :
    (writePlace s n v p).vaBits = s.vaBits := by cases p <;> rfl
@[simp] theorem writePlace_drawIndex (s : State) (n : OpSize) (v : BitVec n.bits) (p : Place) :
    (writePlace s n v p).drawIndex = s.drawIndex := by cases p <;> rfl

@[simp] theorem writePlace_low (s : State) (n : OpSize) (v : BitVec n.bits) (r : BitVec 4) :
    writePlace s n v (.low r) = s.setGreg r ((s.greg r).put s.upperHalf n v) := rfl
@[simp] theorem writePlace_high (s : State) (n : OpSize) (v : BitVec n.bits) (r : BitVec 4) :
    writePlace s n v (.high r) = s.setGreg r ((s.greg r).putHigh (v.setWidth 8)) := rfl
@[simp] theorem writePlace_mem_regs (s : State) (n : OpSize) (v : BitVec n.bits) (as : List Word64) :
    (writePlace s n v (.mem as)).regs = s.regs := rfl
@[simp] theorem writePlace_mem_mem (s : State) (n : OpSize) (v : BitVec n.bits) (as : List Word64) :
    (writePlace s n v (.mem as)).mem = Memory.writeAll s.mem as (bytesOf n v) := rfl

/-! ## `finish`, of a whole rotate -/

@[simp] theorem finish_regs (v : Rotate) (p : Place) (s : State) :
    (finish v p s).regs = (writePlace s v.row.size (resultAt v p s).res p).regs := rfl
@[simp] theorem finish_rip (v : Rotate) (p : Place) (s : State) :
    (finish v p s).rip = s.ripNext (lengthOf v) := rfl
@[simp] theorem finish_flags (v : Rotate) (p : Place) (s : State) :
    (finish v p s).flags = rotateFlags s.flags (maskedCountOf v s) (resultAt v p s).cf (resultAt v p s).of
      (Config.drawOf s.drawIndex) := rfl
@[simp] theorem finish_es (v : Rotate) (p : Place) (s : State) : (finish v p s).es = s.es :=
  writePlace_es s v.row.size _ p
@[simp] theorem finish_cs (v : Rotate) (p : Place) (s : State) : (finish v p s).cs = s.cs :=
  writePlace_cs s v.row.size _ p
@[simp] theorem finish_ss (v : Rotate) (p : Place) (s : State) : (finish v p s).ss = s.ss :=
  writePlace_ss s v.row.size _ p
@[simp] theorem finish_ds (v : Rotate) (p : Place) (s : State) : (finish v p s).ds = s.ds :=
  writePlace_ds s v.row.size _ p
@[simp] theorem finish_fs (v : Rotate) (p : Place) (s : State) : (finish v p s).fs = s.fs :=
  writePlace_fs s v.row.size _ p
@[simp] theorem finish_gs (v : Rotate) (p : Place) (s : State) : (finish v p s).gs = s.gs :=
  writePlace_gs s v.row.size _ p
@[simp] theorem finish_csL (v : Rotate) (p : Place) (s : State) : (finish v p s).csL = s.csL :=
  writePlace_csL s v.row.size _ p
@[simp] theorem finish_csD (v : Rotate) (p : Place) (s : State) : (finish v p s).csD = s.csD :=
  writePlace_csD s v.row.size _ p
@[simp] theorem finish_cr0 (v : Rotate) (p : Place) (s : State) : (finish v p s).cr0 = s.cr0 :=
  writePlace_cr0 s v.row.size _ p
@[simp] theorem finish_cr2 (v : Rotate) (p : Place) (s : State) : (finish v p s).cr2 = s.cr2 :=
  writePlace_cr2 s v.row.size _ p
@[simp] theorem finish_cr3 (v : Rotate) (p : Place) (s : State) : (finish v p s).cr3 = s.cr3 :=
  writePlace_cr3 s v.row.size _ p
@[simp] theorem finish_cr4 (v : Rotate) (p : Place) (s : State) : (finish v p s).cr4 = s.cr4 :=
  writePlace_cr4 s v.row.size _ p
@[simp] theorem finish_efer (v : Rotate) (p : Place) (s : State) : (finish v p s).efer = s.efer :=
  writePlace_efer s v.row.size _ p
@[simp] theorem finish_idtrBase (v : Rotate) (p : Place) (s : State) : (finish v p s).idtrBase = s.idtrBase :=
  writePlace_idtrBase s v.row.size _ p
@[simp] theorem finish_idtrLimit (v : Rotate) (p : Place) (s : State) : (finish v p s).idtrLimit = s.idtrLimit :=
  writePlace_idtrLimit s v.row.size _ p
@[simp] theorem finish_dr6 (v : Rotate) (p : Place) (s : State) : (finish v p s).dr6 = s.dr6 :=
  writePlace_dr6 s v.row.size _ p
@[simp] theorem finish_dr7 (v : Rotate) (p : Place) (s : State) : (finish v p s).dr7 = s.dr7 :=
  writePlace_dr7 s v.row.size _ p
@[simp] theorem finish_translation (v : Rotate) (p : Place) (s : State) : (finish v p s).translation = s.translation :=
  writePlace_translation s v.row.size _ p
@[simp] theorem finish_vaBits (v : Rotate) (p : Place) (s : State) : (finish v p s).vaBits = s.vaBits :=
  writePlace_vaBits s v.row.size _ p
@[simp] theorem finish_mem (v : Rotate) (p : Place) (s : State) :
    (finish v p s).mem = (writePlace s v.row.size (resultAt v p s).res p).mem := rfl
@[simp] theorem finish_drawIndex (v : Rotate) (p : Place) (s : State) :
    (finish v p s).drawIndex = s.drawIndex + 1 := rfl

/-! ## `withFetchWord` -/

@[simp] theorem withFetchWord_regs (s : State) (nbits w : Nat) : (s.withFetchWord nbits w).regs = s.regs := rfl
@[simp] theorem withFetchWord_rip (s : State) (nbits w : Nat) : (s.withFetchWord nbits w).rip = s.rip := rfl
@[simp] theorem withFetchWord_flags (s : State) (nbits w : Nat) : (s.withFetchWord nbits w).flags = s.flags := rfl
@[simp] theorem withFetchWord_es (s : State) (nbits w : Nat) : (s.withFetchWord nbits w).es = s.es := rfl
@[simp] theorem withFetchWord_cs (s : State) (nbits w : Nat) : (s.withFetchWord nbits w).cs = s.cs := rfl
@[simp] theorem withFetchWord_ss (s : State) (nbits w : Nat) : (s.withFetchWord nbits w).ss = s.ss := rfl
@[simp] theorem withFetchWord_ds (s : State) (nbits w : Nat) : (s.withFetchWord nbits w).ds = s.ds := rfl
@[simp] theorem withFetchWord_fs (s : State) (nbits w : Nat) : (s.withFetchWord nbits w).fs = s.fs := rfl
@[simp] theorem withFetchWord_gs (s : State) (nbits w : Nat) : (s.withFetchWord nbits w).gs = s.gs := rfl
@[simp] theorem withFetchWord_csL (s : State) (nbits w : Nat) : (s.withFetchWord nbits w).csL = s.csL := rfl
@[simp] theorem withFetchWord_csD (s : State) (nbits w : Nat) : (s.withFetchWord nbits w).csD = s.csD := rfl
@[simp] theorem withFetchWord_cr0 (s : State) (nbits w : Nat) : (s.withFetchWord nbits w).cr0 = s.cr0 := rfl
@[simp] theorem withFetchWord_cr2 (s : State) (nbits w : Nat) : (s.withFetchWord nbits w).cr2 = s.cr2 := rfl
@[simp] theorem withFetchWord_cr3 (s : State) (nbits w : Nat) : (s.withFetchWord nbits w).cr3 = s.cr3 := rfl
@[simp] theorem withFetchWord_cr4 (s : State) (nbits w : Nat) : (s.withFetchWord nbits w).cr4 = s.cr4 := rfl
@[simp] theorem withFetchWord_efer (s : State) (nbits w : Nat) : (s.withFetchWord nbits w).efer = s.efer := rfl
@[simp] theorem withFetchWord_idtrBase (s : State) (nbits w : Nat) : (s.withFetchWord nbits w).idtrBase = s.idtrBase := rfl
@[simp] theorem withFetchWord_idtrLimit (s : State) (nbits w : Nat) : (s.withFetchWord nbits w).idtrLimit = s.idtrLimit := rfl
@[simp] theorem withFetchWord_dr6 (s : State) (nbits w : Nat) : (s.withFetchWord nbits w).dr6 = s.dr6 := rfl
@[simp] theorem withFetchWord_dr7 (s : State) (nbits w : Nat) : (s.withFetchWord nbits w).dr7 = s.dr7 := rfl
@[simp] theorem withFetchWord_translation (s : State) (nbits w : Nat) : (s.withFetchWord nbits w).translation = s.translation := rfl
@[simp] theorem withFetchWord_vaBits (s : State) (nbits w : Nat) : (s.withFetchWord nbits w).vaBits = s.vaBits := rfl
@[simp] theorem withFetchWord_drawIndex (s : State) (nbits w : Nat) : (s.withFetchWord nbits w).drawIndex = s.drawIndex := rfl
@[simp] theorem withFetchWord_mem (s : State) (nbits w : Nat) :
    (s.withFetchWord nbits w).mem = s.placeCode 0 s.mem (tableBytes nbits w) := rfl

end Sys2Proof.Machine
end

