-- ==== Sys2Proof/Laws/Rotate.lean ====
section
/-! SUPPORT. What an instruction can do, said once: its meaning is the rotate of its parts, and a rotate
faults or finishes. -/

namespace Sys2Proof.Machine

/-- Every meaning is the rotate of the instruction's parts. -/
theorem exec_eq (i : Instr) (s : State) : exec i s = rotate (view i) s := by
  cases i <;> rfl

/-- A rotate that gives a next state has no LOCK prefix and a destination, and finishes there. -/
theorem rotate_next {v : Rotate} {s t : State} (h : rotate v s = .next t) :
    Legacy.lock ∉ v.pre ∧ ∃ p, destination v s = .ok p ∧ t = finish v p s := by
  unfold rotate at h
  split at h
  · exact absurd h (raise_ne_next _ _ _)
  · next hl =>
    refine ⟨by simpa using hl, ?_⟩
    split at h
    · exact absurd h (raise_ne_next _ _ _)
    · next p hp => cases h; exact ⟨p, hp, rfl⟩

/-- A rotate with a destination and no LOCK prefix finishes. -/
theorem rotate_finish {v : Rotate} {s : State} {p : Place} (hl : Legacy.lock ∉ v.pre)
    (hp : destination v s = .ok p) : rotate v s = .next (finish v p s) := by
  unfold rotate
  rw [if_neg (by simpa using hl), hp]

/-- A rotate with a LOCK prefix takes `#UD`. -/
theorem rotate_lock {v : Rotate} {s : State} (hl : Legacy.lock ∈ v.pre) : rotate v s = raise .ud s := by
  unfold rotate
  rw [if_pos (by simpa using hl)]

/-- A rotate whose operand fails a check takes its exception. -/
theorem rotate_error {v : Rotate} {s : State} {e : Exn} (hl : Legacy.lock ∉ v.pre)
    (he : destination v s = .error e) : rotate v s = raise e s := by
  unfold rotate
  rw [if_neg (by simpa using hl), he]

/-- The destination of a register form is its register. -/
theorem destination_reg {v : Rotate} {s : State} {rm : BitVec 3} (h : v.dst = .reg rm) :
    destination v s = .ok (registerPlace v.row rm) := by
  unfold destination
  rw [h]

/-- The destination of a memory form is the bytes of its operand. -/
theorem destination_mem {v : Rotate} {s : State} (h : ∀ rm, v.dst ≠ .reg rm) :
    destination v s = (match memoryOperand v s with | .ok as => .ok (.mem as) | .error e => .error e) := by
  unfold destination
  split
  · next rm hr => exact absurd hr (h rm)
  · rfl

/-- A destination written reads back as written, its bytes of memory being different ones. -/
theorem readPlace_writePlace (s : State) (n : OpSize) (v : BitVec n.bits) :
    (∀ r, readPlace (writePlace s n v (.low r)) n (.low r) = v)
      ∧ (∀ r, n = .b8 → readPlace (writePlace s n v (.high r)) n (.high r) = v)
      ∧ ∀ as, as.Nodup → as.length = n.bytes →
          Memory.readAll (writePlace s n v (.mem as)).mem as = bytesOf n v := by
  refine ⟨fun r => by simp [readPlace], fun r h => ?_, fun as hd hl => ?_⟩
  · subst h; simp [readPlace]
  · exact readAll_writeAll _ hd (by simpa using hl.symm)

/-- The flags a rotate leaves: only CF and OF may differ. -/
theorem rotateFlags_cases (f : Flags) (m : Nat) (cf ov free : Bool) :
    (m = 0 ∧ rotateFlags f m cf ov free = f)
      ∨ (m = 1 ∧ rotateFlags f m cf ov free = { f with cf := cf, of := ov })
      ∨ (1 < m ∧ rotateFlags f m cf ov free = { f with cf := cf, of := free }) := by
  unfold rotateFlags
  split
  · next h => exact .inl ⟨h, rfl⟩
  · split
    · next h => exact .inr (.inl ⟨h, rfl⟩)
    · next h1 h2 => exact .inr (.inr ⟨by omega, rfl⟩)

end Sys2Proof.Machine
end

