-- ==== Sys2Proof/Tests/Slice0.lean ====
section
/-! SUPPORT. Tests. The expected results are the spec's: the worked example of each row
(spec/41_rcl.md to spec/44_ror.md) and vectors of spec/95_test_vectors.md. -/

namespace Sys2Proof.Tests
open Sys2Proof.Machine

/-! ## Small states -/

/-- A launch in 64-bit mode with paging on, the identity translation, and code at 0x1000. -/
def long64 (code : List Byte) : State :=
  { State.reset with
    rip := 0x1000
    csL := true
    cr0 := 0x80000001
    efer := 0x400
    mem := Memory.writeAll [] ((List.range code.length).map (fun j => BitVec.ofNat 64 (0x1000 + j))) code }

/-- A register of 64 bits. -/
def greg (x : Word64) : GReg := ⟨x.extractLsb' 32 32, x.extractLsb' 0 32⟩

/-- Code at 0x1000 in 64-bit mode with a register, CL and CF given. -/
def codeWith (code : List Byte) (r : BitVec 4) (x : Word64) (cl : Byte) (cf : Bool) : State :=
  { ((long64 code).setGreg 1 ⟨0, cl.setWidth 32⟩).setGreg r (greg x) with
    flags := { Flags.atReset with cf := cf } }

/-- The outcome is a next state with this register, CF, OF (if the spec defines it) and RIP offset. -/
def leaves (o : Result) (r : BitVec 4) (x : Word64) (cf : Bool) (ov : Option Bool) (length : Word64) :
    Bool :=
  match o with
  | .next t =>
    (t.greg r).word = x && t.flags.cf = cf && t.rip = 0x1000 + length
      && (match ov with | none => true | some b => t.flags.of = b)
  | .fault _ => false
  | .refused _ => false

/-! ## Every row: its decoding, and one step -/

/-! ### RCL (spec/41_rcl.md R201 to R215) -/

theorem test_decode_rclRm8One : decode .long64 false [0xD0, 0xD3] =
    .ok (.rclRm8One [] (.reg 3), []) := by
  decide

theorem test_step_rclRm8One :
    leaves (step (codeWith [0xD0, 0xD3] 3 0x11223344556677B4 0x00 true))
      3 0x1122334455667769 true (some true) 2 = true := by
  decide

theorem test_decode_rclRm8XOne : decode .long64 false [0x40, 0xD0, 0xD6] =
    .ok (.rclRm8XOne [] ⟨false, ⟨false, false, false⟩⟩ (.reg 6), []) := by
  decide

theorem test_step_rclRm8XOne :
    leaves (step (codeWith [0x40, 0xD0, 0xD6] 6 0x11223344556677B4 0x00 true))
      6 0x1122334455667769 true (some true) 3 = true := by
  decide

theorem test_decode_rclRm8Cl : decode .long64 false [0xD2, 0xD3] =
    .ok (.rclRm8Cl [] (.reg 3), []) := by
  decide

theorem test_step_rclRm8Cl :
    leaves (step (codeWith [0xD2, 0xD3] 3 0x11223344556677B4 0x0A true))
      3 0x1122334455667769 true (none) 2 = true := by
  decide

theorem test_decode_rclRm8XCl : decode .long64 false [0x40, 0xD2, 0xD6] =
    .ok (.rclRm8XCl [] ⟨false, ⟨false, false, false⟩⟩ (.reg 6), []) := by
  decide

theorem test_step_rclRm8XCl :
    leaves (step (codeWith [0x40, 0xD2, 0xD6] 6 0x11223344556677B4 0x0A true))
      6 0x1122334455667769 true (none) 3 = true := by
  decide

theorem test_decode_rclRm8Imm : decode .long64 false [0xC0, 0xD3, 0x0C] =
    .ok (.rclRm8Imm [] (.reg 3) 0x0C, []) := by
  decide

theorem test_step_rclRm8Imm :
    leaves (step (codeWith [0xC0, 0xD3, 0x0C] 3 0x11223344556677B4 0x00 true))
      3 0x11223344556677A6 true (none) 3 = true := by
  decide

theorem test_decode_rclRm8XImm : decode .long64 false [0x40, 0xC0, 0xD6, 0x0C] =
    .ok (.rclRm8XImm [] ⟨false, ⟨false, false, false⟩⟩ (.reg 6) 0x0C, []) := by
  decide

theorem test_step_rclRm8XImm :
    leaves (step (codeWith [0x40, 0xC0, 0xD6, 0x0C] 6 0x11223344556677B4 0x00 true))
      6 0x11223344556677A6 true (none) 4 = true := by
  decide

theorem test_decode_rclRm16One : decode .long64 false [0x66, 0xD1, 0xD2] =
    .ok (.rclRm16One [.opsize] none (.reg 2), []) := by
  decide

theorem test_step_rclRm16One :
    leaves (step (codeWith [0x66, 0xD1, 0xD2] 2 0x1122334455668421 0x00 true))
      2 0x1122334455660843 true (some true) 3 = true := by
  decide

theorem test_decode_rclRm16Cl : decode .long64 false [0x66, 0xD3, 0xD2] =
    .ok (.rclRm16Cl [.opsize] none (.reg 2), []) := by
  decide

theorem test_step_rclRm16Cl :
    leaves (step (codeWith [0x66, 0xD3, 0xD2] 2 0x1122334455668421 0x11 true))
      2 0x1122334455668421 true (none) 3 = true := by
  decide

theorem test_decode_rclRm16Imm : decode .long64 false [0x66, 0xC1, 0xD2, 0x14] =
    .ok (.rclRm16Imm [.opsize] none (.reg 2) 0x14, []) := by
  decide

theorem test_step_rclRm16Imm :
    leaves (step (codeWith [0x66, 0xC1, 0xD2, 0x14] 2 0x1122334455668421 0x00 true))
      2 0x112233445566210E false (none) 4 = true := by
  decide

theorem test_decode_rclRm32One : decode .long64 false [0xD1, 0xD0] =
    .ok (.rclRm32One [] none (.reg 0), []) := by
  decide

theorem test_step_rclRm32One :
    leaves (step (codeWith [0xD1, 0xD0] 0 0xFFFFFFFF80000003 0x00 true))
      0 0x0000000000000007 true (some true) 2 = true := by
  decide

theorem test_decode_rclRm64One : decode .long64 false [0x48, 0xD1, 0xD0] =
    .ok (.rclRm64One [] ⟨false, false, false⟩ (.reg 0), []) := by
  decide

theorem test_step_rclRm64One :
    leaves (step (codeWith [0x48, 0xD1, 0xD0] 0 0x8000000000000003 0x00 true))
      0 0x0000000000000007 true (some true) 3 = true := by
  decide

theorem test_decode_rclRm32Cl : decode .long64 false [0xD3, 0xD0] =
    .ok (.rclRm32Cl [] none (.reg 0), []) := by
  decide

theorem test_step_rclRm32Cl :
    leaves (step (codeWith [0xD3, 0xD0] 0 0xFFFFFFFF80000003 0x21 true))
      0 0x0000000000000007 true (some true) 2 = true := by
  decide

theorem test_decode_rclRm64Cl : decode .long64 false [0x48, 0xD3, 0xD0] =
    .ok (.rclRm64Cl [] ⟨false, false, false⟩ (.reg 0), []) := by
  decide

theorem test_step_rclRm64Cl :
    leaves (step (codeWith [0x48, 0xD3, 0xD0] 0 0x8000000000000003 0x21 true))
      0 0x0000000780000000 false (none) 3 = true := by
  decide +kernel

theorem test_decode_rclRm32Imm : decode .long64 false [0xC1, 0xD0, 0x24] =
    .ok (.rclRm32Imm [] none (.reg 0) 0x24, []) := by
  decide

theorem test_step_rclRm32Imm :
    leaves (step (codeWith [0xC1, 0xD0, 0x24] 0 0xFFFFFFFF80000003 0x00 true))
      0 0x000000000000003C false (none) 3 = true := by
  decide

theorem test_decode_rclRm64Imm : decode .long64 false [0x48, 0xC1, 0xD0, 0x44] =
    .ok (.rclRm64Imm [] ⟨false, false, false⟩ (.reg 0) 0x44, []) := by
  decide

theorem test_step_rclRm64Imm :
    leaves (step (codeWith [0x48, 0xC1, 0xD0, 0x44] 0 0x8000000000000003 0x00 true))
      0 0x000000000000003C false (none) 4 = true := by
  decide

/-! ### RCR (spec/42_rcr.md R221 to R235) -/

theorem test_decode_rcrRm8One : decode .long64 false [0xD0, 0xDC] =
    .ok (.rcrRm8One [] (.reg 4), []) := by
  decide

theorem test_step_rcrRm8One :
    leaves (step (codeWith [0xD0, 0xDC] 0 0x112233445566B488 0x00 true))
      0 0x112233445566DA88 false (some false) 2 = true := by
  decide

theorem test_decode_rcrRm8XOne : decode .long64 false [0x41, 0xD0, 0xD9] =
    .ok (.rcrRm8XOne [] ⟨false, ⟨false, false, true⟩⟩ (.reg 1), []) := by
  decide

theorem test_step_rcrRm8XOne :
    leaves (step (codeWith [0x41, 0xD0, 0xD9] 9 0x11223344556677B4 0x00 true))
      9 0x11223344556677DA false (some false) 3 = true := by
  decide

theorem test_decode_rcrRm8Cl : decode .long64 false [0xD2, 0xDC] =
    .ok (.rcrRm8Cl [] (.reg 4), []) := by
  decide

theorem test_step_rcrRm8Cl :
    leaves (step (codeWith [0xD2, 0xDC] 0 0x112233445566B488 0x0A true))
      0 0x112233445566DA88 false (none) 2 = true := by
  decide

theorem test_decode_rcrRm8XCl : decode .long64 false [0x41, 0xD2, 0xD9] =
    .ok (.rcrRm8XCl [] ⟨false, ⟨false, false, true⟩⟩ (.reg 1), []) := by
  decide

theorem test_step_rcrRm8XCl :
    leaves (step (codeWith [0x41, 0xD2, 0xD9] 9 0x11223344556677B4 0x0A true))
      9 0x11223344556677DA false (none) 3 = true := by
  decide

theorem test_decode_rcrRm8Imm : decode .long64 false [0xC0, 0xDC, 0x0C] =
    .ok (.rcrRm8Imm [] (.reg 4) 0x0C, []) := by
  decide

theorem test_step_rcrRm8Imm :
    leaves (step (codeWith [0xC0, 0xDC, 0x0C] 0 0x112233445566B488 0x00 true))
      0 0x1122334455663688 true (none) 3 = true := by
  decide

theorem test_decode_rcrRm8XImm : decode .long64 false [0x41, 0xC0, 0xD9, 0x0C] =
    .ok (.rcrRm8XImm [] ⟨false, ⟨false, false, true⟩⟩ (.reg 1) 0x0C, []) := by
  decide

theorem test_step_rcrRm8XImm :
    leaves (step (codeWith [0x41, 0xC0, 0xD9, 0x0C] 9 0x11223344556677B4 0x00 true))
      9 0x1122334455667736 true (none) 4 = true := by
  decide

theorem test_decode_rcrRm16One : decode .long64 false [0x66, 0xD1, 0xDB] =
    .ok (.rcrRm16One [.opsize] none (.reg 3), []) := by
  decide

theorem test_step_rcrRm16One :
    leaves (step (codeWith [0x66, 0xD1, 0xDB] 3 0x1122334455668421 0x00 true))
      3 0x112233445566C210 true (some false) 3 = true := by
  decide

theorem test_decode_rcrRm16Cl : decode .long64 false [0x66, 0xD3, 0xDB] =
    .ok (.rcrRm16Cl [.opsize] none (.reg 3), []) := by
  decide

theorem test_step_rcrRm16Cl :
    leaves (step (codeWith [0x66, 0xD3, 0xDB] 3 0x1122334455668421 0x11 true))
      3 0x1122334455668421 true (none) 3 = true := by
  decide

theorem test_decode_rcrRm16Imm : decode .long64 false [0x66, 0xC1, 0xDB, 0x14] =
    .ok (.rcrRm16Imm [.opsize] none (.reg 3) 0x14, []) := by
  decide

theorem test_step_rcrRm16Imm :
    leaves (step (codeWith [0x66, 0xC1, 0xDB, 0x14] 3 0x1122334455668421 0x00 true))
      3 0x1122334455667084 false (none) 4 = true := by
  decide

theorem test_decode_rcrRm32One : decode .long64 false [0xD1, 0xDA] =
    .ok (.rcrRm32One [] none (.reg 2), []) := by
  decide

theorem test_step_rcrRm32One :
    leaves (step (codeWith [0xD1, 0xDA] 2 0xFFFFFFFF80000003 0x00 true))
      2 0x00000000C0000001 true (some false) 2 = true := by
  decide

theorem test_decode_rcrRm64One : decode .long64 false [0x49, 0xD1, 0xDA] =
    .ok (.rcrRm64One [] ⟨false, false, true⟩ (.reg 2), []) := by
  decide

theorem test_step_rcrRm64One :
    leaves (step (codeWith [0x49, 0xD1, 0xDA] 10 0x8000000000000003 0x00 true))
      10 0xC000000000000001 true (some false) 3 = true := by
  decide

theorem test_decode_rcrRm32Cl : decode .long64 false [0xD3, 0xDA] =
    .ok (.rcrRm32Cl [] none (.reg 2), []) := by
  decide

theorem test_step_rcrRm32Cl :
    leaves (step (codeWith [0xD3, 0xDA] 2 0xFFFFFFFF80000003 0x21 true))
      2 0x00000000C0000001 true (some false) 2 = true := by
  decide

theorem test_decode_rcrRm64Cl : decode .long64 false [0x49, 0xD3, 0xDA] =
    .ok (.rcrRm64Cl [] ⟨false, false, true⟩ (.reg 2), []) := by
  decide

theorem test_step_rcrRm64Cl :
    leaves (step (codeWith [0x49, 0xD3, 0xDA] 10 0x8000000000000003 0x21 true))
      10 0x00000003C0000000 false (none) 3 = true := by
  decide +kernel

theorem test_decode_rcrRm32Imm : decode .long64 false [0xC1, 0xDA, 0x24] =
    .ok (.rcrRm32Imm [] none (.reg 2) 0x24, []) := by
  decide

theorem test_step_rcrRm32Imm :
    leaves (step (codeWith [0xC1, 0xDA, 0x24] 2 0xFFFFFFFF80000003 0x00 true))
      2 0x0000000078000000 false (none) 3 = true := by
  decide

theorem test_decode_rcrRm64Imm : decode .long64 false [0x49, 0xC1, 0xDA, 0x44] =
    .ok (.rcrRm64Imm [] ⟨false, false, true⟩ (.reg 2) 0x44, []) := by
  decide

theorem test_step_rcrRm64Imm :
    leaves (step (codeWith [0x49, 0xC1, 0xDA, 0x44] 10 0x8000000000000003 0x00 true))
      10 0x7800000000000000 false (none) 4 = true := by
  decide

/-! ### ROL (spec/43_rol.md R241 to R255) -/

theorem test_decode_rolRm8One : decode .long64 false [0xD0, 0xC6] =
    .ok (.rolRm8One [] (.reg 6), []) := by
  decide

theorem test_step_rolRm8One :
    leaves (step (codeWith [0xD0, 0xC6] 2 0x112233445566B488 0x00 false))
      2 0x1122334455666988 true (some true) 2 = true := by
  decide

theorem test_decode_rolRm8XOne : decode .long64 false [0x40, 0xD0, 0xC7] =
    .ok (.rolRm8XOne [] ⟨false, ⟨false, false, false⟩⟩ (.reg 7), []) := by
  decide

theorem test_step_rolRm8XOne :
    leaves (step (codeWith [0x40, 0xD0, 0xC7] 7 0x11223344556677B4 0x00 false))
      7 0x1122334455667769 true (some true) 3 = true := by
  decide

theorem test_decode_rolRm8Cl : decode .long64 false [0xD2, 0xC6] =
    .ok (.rolRm8Cl [] (.reg 6), []) := by
  decide

theorem test_step_rolRm8Cl :
    leaves (step (codeWith [0xD2, 0xC6] 2 0x112233445566B488 0x0A false))
      2 0x112233445566D288 false (none) 2 = true := by
  decide

theorem test_decode_rolRm8XCl : decode .long64 false [0x40, 0xD2, 0xC7] =
    .ok (.rolRm8XCl [] ⟨false, ⟨false, false, false⟩⟩ (.reg 7), []) := by
  decide

theorem test_step_rolRm8XCl :
    leaves (step (codeWith [0x40, 0xD2, 0xC7] 7 0x11223344556677B4 0x0A false))
      7 0x11223344556677D2 false (none) 3 = true := by
  decide

theorem test_decode_rolRm8Imm : decode .long64 false [0xC0, 0xC6, 0x0C] =
    .ok (.rolRm8Imm [] (.reg 6) 0x0C, []) := by
  decide

theorem test_step_rolRm8Imm :
    leaves (step (codeWith [0xC0, 0xC6, 0x0C] 2 0x112233445566B488 0x00 false))
      2 0x1122334455664B88 true (none) 3 = true := by
  decide

theorem test_decode_rolRm8XImm : decode .long64 false [0x40, 0xC0, 0xC7, 0x0C] =
    .ok (.rolRm8XImm [] ⟨false, ⟨false, false, false⟩⟩ (.reg 7) 0x0C, []) := by
  decide

theorem test_step_rolRm8XImm :
    leaves (step (codeWith [0x40, 0xC0, 0xC7, 0x0C] 7 0x11223344556677B4 0x00 false))
      7 0x112233445566774B true (none) 4 = true := by
  decide

theorem test_decode_rolRm16One : decode .long64 false [0x66, 0xD1, 0xC0] =
    .ok (.rolRm16One [.opsize] none (.reg 0), []) := by
  decide

theorem test_step_rolRm16One :
    leaves (step (codeWith [0x66, 0xD1, 0xC0] 0 0x1122334455668421 0x00 false))
      0 0x1122334455660843 true (some true) 3 = true := by
  decide

theorem test_decode_rolRm16Cl : decode .long64 false [0x66, 0xD3, 0xC0] =
    .ok (.rolRm16Cl [.opsize] none (.reg 0), []) := by
  decide

theorem test_step_rolRm16Cl :
    leaves (step (codeWith [0x66, 0xD3, 0xC0] 0 0x1122334455668421 0x11 false))
      0 0x1122334455660843 true (none) 3 = true := by
  decide

theorem test_decode_rolRm16Imm : decode .long64 false [0x66, 0xC1, 0xC0, 0x14] =
    .ok (.rolRm16Imm [.opsize] none (.reg 0) 0x14, []) := by
  decide

theorem test_step_rolRm16Imm :
    leaves (step (codeWith [0x66, 0xC1, 0xC0, 0x14] 0 0x1122334455668421 0x00 false))
      0 0x1122334455664218 false (none) 4 = true := by
  decide

theorem test_decode_rolRm32One : decode .long64 false [0xD1, 0xC3] =
    .ok (.rolRm32One [] none (.reg 3), []) := by
  decide

theorem test_step_rolRm32One :
    leaves (step (codeWith [0xD1, 0xC3] 3 0xFFFFFFFF80000003 0x00 false))
      3 0x0000000000000007 true (some true) 2 = true := by
  decide

theorem test_decode_rolRm64One : decode .long64 false [0x48, 0xD1, 0xC2] =
    .ok (.rolRm64One [] ⟨false, false, false⟩ (.reg 2), []) := by
  decide

theorem test_step_rolRm64One :
    leaves (step (codeWith [0x48, 0xD1, 0xC2] 2 0x8000000000000003 0x00 false))
      2 0x0000000000000007 true (some true) 3 = true := by
  decide

theorem test_decode_rolRm32Cl : decode .long64 false [0xD3, 0xC3] =
    .ok (.rolRm32Cl [] none (.reg 3), []) := by
  decide

theorem test_step_rolRm32Cl :
    leaves (step (codeWith [0xD3, 0xC3] 3 0xFFFFFFFF80000003 0x21 false))
      3 0x0000000000000007 true (some true) 2 = true := by
  decide

theorem test_decode_rolRm64Cl : decode .long64 false [0x48, 0xD3, 0xC2] =
    .ok (.rolRm64Cl [] ⟨false, false, false⟩ (.reg 2), []) := by
  decide

theorem test_step_rolRm64Cl :
    leaves (step (codeWith [0x48, 0xD3, 0xC2] 2 0x8000000000000003 0x21 false))
      2 0x0000000700000000 false (none) 3 = true := by
  decide +kernel

theorem test_decode_rolRm32Imm : decode .long64 false [0xC1, 0xC3, 0x24] =
    .ok (.rolRm32Imm [] none (.reg 3) 0x24, []) := by
  decide

theorem test_step_rolRm32Imm :
    leaves (step (codeWith [0xC1, 0xC3, 0x24] 3 0xFFFFFFFF80000003 0x00 false))
      3 0x0000000000000038 false (none) 3 = true := by
  decide

theorem test_decode_rolRm64Imm : decode .long64 false [0x48, 0xC1, 0xC2, 0x44] =
    .ok (.rolRm64Imm [] ⟨false, false, false⟩ (.reg 2) 0x44, []) := by
  decide

theorem test_step_rolRm64Imm :
    leaves (step (codeWith [0x48, 0xC1, 0xC2, 0x44] 2 0x8000000000000003 0x00 false))
      2 0x0000000000000038 false (none) 4 = true := by
  decide

/-! ### ROR (spec/44_ror.md R261 to R275) -/

theorem test_decode_rorRm8One : decode .long64 false [0xD0, 0xC8] =
    .ok (.rorRm8One [] (.reg 0), []) := by
  decide

theorem test_step_rorRm8One :
    leaves (step (codeWith [0xD0, 0xC8] 0 0x11223344556677B4 0x00 false))
      0 0x112233445566775A false (some true) 2 = true := by
  decide

theorem test_decode_rorRm8XOne : decode .long64 false [0x41, 0xD0, 0xCF] =
    .ok (.rorRm8XOne [] ⟨false, ⟨false, false, true⟩⟩ (.reg 7), []) := by
  decide

theorem test_step_rorRm8XOne :
    leaves (step (codeWith [0x41, 0xD0, 0xCF] 15 0x11223344556677B4 0x00 false))
      15 0x112233445566775A false (some true) 3 = true := by
  decide

theorem test_decode_rorRm8Cl : decode .long64 false [0xD2, 0xC8] =
    .ok (.rorRm8Cl [] (.reg 0), []) := by
  decide

theorem test_step_rorRm8Cl :
    leaves (step (codeWith [0xD2, 0xC8] 0 0x11223344556677B4 0x0A false))
      0 0x112233445566772D false (none) 2 = true := by
  decide

theorem test_decode_rorRm8XCl : decode .long64 false [0x41, 0xD2, 0xCF] =
    .ok (.rorRm8XCl [] ⟨false, ⟨false, false, true⟩⟩ (.reg 7), []) := by
  decide

theorem test_step_rorRm8XCl :
    leaves (step (codeWith [0x41, 0xD2, 0xCF] 15 0x11223344556677B4 0x0A false))
      15 0x112233445566772D false (none) 3 = true := by
  decide

theorem test_decode_rorRm8Imm : decode .long64 false [0xC0, 0xC8, 0x0C] =
    .ok (.rorRm8Imm [] (.reg 0) 0x0C, []) := by
  decide

theorem test_step_rorRm8Imm :
    leaves (step (codeWith [0xC0, 0xC8, 0x0C] 0 0x11223344556677B4 0x00 false))
      0 0x112233445566774B false (none) 3 = true := by
  decide

theorem test_decode_rorRm8XImm : decode .long64 false [0x41, 0xC0, 0xCF, 0x0C] =
    .ok (.rorRm8XImm [] ⟨false, ⟨false, false, true⟩⟩ (.reg 7) 0x0C, []) := by
  decide

theorem test_step_rorRm8XImm :
    leaves (step (codeWith [0x41, 0xC0, 0xCF, 0x0C] 15 0x11223344556677B4 0x00 false))
      15 0x112233445566774B false (none) 4 = true := by
  decide

theorem test_decode_rorRm16One : decode .long64 false [0x66, 0xD1, 0xCE] =
    .ok (.rorRm16One [.opsize] none (.reg 6), []) := by
  decide

theorem test_step_rorRm16One :
    leaves (step (codeWith [0x66, 0xD1, 0xCE] 6 0x1122334455668421 0x00 false))
      6 0x112233445566C210 true (some false) 3 = true := by
  decide

theorem test_decode_rorRm16Cl : decode .long64 false [0x66, 0xD3, 0xCE] =
    .ok (.rorRm16Cl [.opsize] none (.reg 6), []) := by
  decide

theorem test_step_rorRm16Cl :
    leaves (step (codeWith [0x66, 0xD3, 0xCE] 6 0x1122334455668421 0x11 false))
      6 0x112233445566C210 true (none) 3 = true := by
  decide

theorem test_decode_rorRm16Imm : decode .long64 false [0x66, 0xC1, 0xCE, 0x14] =
    .ok (.rorRm16Imm [.opsize] none (.reg 6) 0x14, []) := by
  decide

theorem test_step_rorRm16Imm :
    leaves (step (codeWith [0x66, 0xC1, 0xCE, 0x14] 6 0x1122334455668421 0x00 false))
      6 0x1122334455661842 false (none) 4 = true := by
  decide

theorem test_decode_rorRm32One : decode .long64 false [0xD1, 0xCF] =
    .ok (.rorRm32One [] none (.reg 7), []) := by
  decide

theorem test_step_rorRm32One :
    leaves (step (codeWith [0xD1, 0xCF] 7 0xFFFFFFFF80000003 0x00 false))
      7 0x00000000C0000001 true (some false) 2 = true := by
  decide

theorem test_decode_rorRm64One : decode .long64 false [0x49, 0xD1, 0xCD] =
    .ok (.rorRm64One [] ⟨false, false, true⟩ (.reg 5), []) := by
  decide

theorem test_step_rorRm64One :
    leaves (step (codeWith [0x49, 0xD1, 0xCD] 13 0x8000000000000003 0x00 false))
      13 0xC000000000000001 true (some false) 3 = true := by
  decide

theorem test_decode_rorRm32Cl : decode .long64 false [0xD3, 0xCF] =
    .ok (.rorRm32Cl [] none (.reg 7), []) := by
  decide

theorem test_step_rorRm32Cl :
    leaves (step (codeWith [0xD3, 0xCF] 7 0xFFFFFFFF80000003 0x21 false))
      7 0x00000000C0000001 true (some false) 2 = true := by
  decide

theorem test_decode_rorRm64Cl : decode .long64 false [0x49, 0xD3, 0xCD] =
    .ok (.rorRm64Cl [] ⟨false, false, true⟩ (.reg 5), []) := by
  decide

theorem test_step_rorRm64Cl :
    leaves (step (codeWith [0x49, 0xD3, 0xCD] 13 0x8000000000000003 0x21 false))
      13 0x00000001C0000000 false (none) 3 = true := by
  decide +kernel

theorem test_decode_rorRm32Imm : decode .long64 false [0xC1, 0xCF, 0x24] =
    .ok (.rorRm32Imm [] none (.reg 7) 0x24, []) := by
  decide

theorem test_step_rorRm32Imm :
    leaves (step (codeWith [0xC1, 0xCF, 0x24] 7 0xFFFFFFFF80000003 0x00 false))
      7 0x0000000038000000 false (none) 3 = true := by
  decide

theorem test_decode_rorRm64Imm : decode .long64 false [0x49, 0xC1, 0xCD, 0x44] =
    .ok (.rorRm64Imm [] ⟨false, false, true⟩ (.reg 5) 0x44, []) := by
  decide

theorem test_step_rorRm64Imm :
    leaves (step (codeWith [0x49, 0xC1, 0xCD, 0x44] 13 0x8000000000000003 0x00 false))
      13 0x3800000000000000 false (none) 4 = true := by
  decide
/-! ## Decoding: refusals, prefixes, sizes (spec/95_test_vectors.md section 2.2) -/

theorem test_decode_digit4 : decode .long64 false [0xD0, 0xE0] = .error (.reject (.shiftGroup 4)) := by
  decide

theorem test_decode_rep : decode .long64 false [0xF3, 0xD1, 0xC0] = .error (.reject .repeatByte) := by
  decide

theorem test_decode_repeated_group :
    decode .long64 false [0x66, 0x66, 0xD1, 0xC0] = .error (.reject .repeatedGroup) := by
  decide

theorem test_decode_rex_not_last :
    decode .long64 false [0x48, 0x66, 0xD1, 0xC0] = .error (.reject .rexNotLast) := by
  decide

theorem test_decode_rex_outside :
    decode .compat true [0x48, 0xD1, 0xC0] = .error (.reject .rexOutsideLong64) := by
  decide

theorem test_decode_other : decode .long64 false [0x90] = .error (.reject (.otherOpcode 0x90)) := by
  decide

theorem test_decode_short : decode .long64 false [0xD1, 0x83, 0x00] = .error .short := by
  decide

/-- REX.W wins over `66`. -/
theorem test_decode_rexw_over_66 : decode .long64 false [0x66, 0x48, 0xD1, 0xC0] =
    .ok (.rolRm64One [.opsize] ⟨false, false, false⟩ (.reg 0), []) := by
  decide

/-- The operand size of `D1 C0` in a 16-bit and a 32-bit segment. -/
theorem test_decode_default_sizes :
    decode .prot false [0xD1, 0xC0] = .ok (.rolRm16One [] none (.reg 0), [])
      ∧ decode .prot true [0xD1, 0xC0] = .ok (.rolRm32One [] none (.reg 0), [])
      ∧ decode .real false [0x66, 0xC1, 0xC8, 0x10] = .ok (.rorRm32Imm [.opsize] none (.reg 0) 0x10, []) := by
  decide

/-- SIB, displacement and immediate together. -/
theorem test_decode_sib : decode .long64 false [0xC1, 0x84, 0xB3, 0x00, 0x01, 0x00, 0x00, 0x07] =
    .ok (.rolRm32Imm [] none (.sib 2 6 3 (.d32 0x100)) 7, []) := by
  decide

/-- 16-bit addressing. -/
theorem test_decode_addr16 : decode .real false [0xD1, 0x06, 0x34, 0x12] =
    .ok (.rolRm16One [] none (.abs16 0x1234), []) := by
  decide

/-! ## WellFormed: one ill-formed term for each check -/

theorem test_groups_refused : wellFormed .long64 false (.rolRm8One [.seg .fs, .seg .gs] (.reg 0)) = false := by
  decide

theorem test_rex_refused :
    wellFormed .prot true (.rolRm64One [] ⟨false, false, false⟩ (.reg 0)) = false := by
  decide

theorem test_size_refused : wellFormed .prot true (.rolRm16One [] none (.reg 0)) = false := by
  decide

theorem test_address_refused : wellFormed .prot true (.rolRm8One [] (.mem16 .bx .none)) = false := by
  decide

theorem test_shape_refused : wellFormed .prot true (.rolRm8One [] (.mem 4 .none)) = false := by
  decide

theorem test_shape_abs_refused : wellFormed .prot true (.rolRm8One [] (.mem 5 .none)) = false := by
  decide

theorem test_shape_sib_refused : wellFormed .prot true (.rolRm8One [] (.sib 0 0 5 .none)) = false := by
  decide

theorem test_shape_bp_refused : wellFormed .real false (.rolRm8One [] (.mem16 .bp .none)) = false := by
  decide

theorem test_wellFormed : wellFormed .long64 false (.rolRm32Imm [.seg .gs] none (.sib 2 6 3 (.d32 1)) 7) := by
  decide

/-! ## Memory and exceptions (spec/95_test_vectors.md section 2.4) -/

/-- The mode's defaults of the memory vectors: code at 0x1000, unlimited segments. -/
def flat : Seg := ⟨8, 0, [⟨0, 2 ^ 64 - 1⟩], true⟩

/-- A launch in protected mode, 32-bit code segment, with unlimited segments. -/
def protected32 (code : List Byte) : State :=
  { long64 code with
    cr0 := 1
    efer := 0
    csL := false
    csD := true
    es := flat
    cs := flat
    ss := flat
    ds := flat
    fs := flat
    gs := flat }

/-- A launch in real mode, segment bases 0, limits 0xFFFF. -/
def real16 (code : List Byte) : State :=
  { long64 code with cr0 := 0, efer := 0, csL := false, cs := Seg.atReset 0 0 }

/-- The outcome is this exception record. -/
def faults (o : Result) (f : FaultRecord) : Bool :=
  match o with
  | .next _ => false
  | .fault g => faultRecord g = f
  | .refused _ => false

/-- The outcome is a next state with these bytes at an address. -/
def stores (o : Result) (a : Word64) (bs : List Byte) (cf : Bool) : Bool :=
  match o with
  | .next t =>
    (List.range bs.length).map (fun j => Memory.read t.mem (a + BitVec.ofNat 64 j)) = bs && t.flags.cf = cf
  | .fault _ => false
  | .refused _ => false

/-- A state with bytes in memory. -/
def withBytes (s : State) (a : Word64) (bs : List Byte) : State :=
  { s with mem := Memory.writeAll s.mem ((List.range bs.length).map (fun j => a + BitVec.ofNat 64 j)) bs }

/-- A state with alignment checking on at CPL 3. -/
def aligned3 (s : State) : State :=
  { s with
    cr0 := s.cr0 ||| 0x40000
    flags := { s.flags with ac := true }
    cs := { s.cs with selector := 3 } }

/-- M1: little-endian dword. -/
theorem test_M1 : stores (step ((withBytes (long64 [0xC1, 0x03, 0x08]) 0x2000 [0x44, 0x33, 0x22, 0x11]).setGreg 3
    (greg 0x2000))) 0x2000 [0x11, 0x44, 0x33, 0x22] true = true := by
  decide

/-- M2: misaligned word with alignment checking off. -/
theorem test_M2 : stores (step ((withBytes (long64 [0x66, 0xD1, 0x0B]) 0x2001 [0x01, 0x80]).setGreg 3
    (greg 0x2001))) 0x2001 [0x00, 0xC0] true = true := by
  decide

/-- M3: the same with alignment checking on at CPL 3. -/
theorem test_M3 : faults (step (aligned3 ((long64 [0x66, 0xD1, 0x0B]).setGreg 3 (greg 0x2001))))
    ⟨17, "#AC", some 0, none, 0x1000⟩ = true := by
  decide

/-- M5: a byte is never misaligned. -/
theorem test_M5 : stores (step (aligned3 ((withBytes (long64 [0xD0, 0x0B]) 0x2001 [0x01]).setGreg 3
    (greg 0x2001)))) 0x2001 [0x80] true = true := by
  decide

/-- M8: a non-canonical address through SS. -/
theorem test_M8 : faults (step ((long64 [0xD1, 0x45, 0x00]).setGreg 5 (greg 0x800000000000)))
    ⟨12, "#SS", some 0, none, 0x1000⟩ = true := by
  decide

/-- M9: an operand across the canonical boundary. -/
theorem test_M9 : faults (step ((long64 [0xD1, 0x03]).setGreg 3 (greg 0x7FFFFFFFFFFE)))
    ⟨13, "#GP", some 0, none, 0x1000⟩ = true := by
  decide

/-- M11: a page that is not writable faults at masked count 0. -/
theorem test_M11 : faults (step { (long64 [0xC1, 0x03, 0x20]).setGreg 3 (greg 0x2000) with
    translation := [⟨0x2000, 0x2FFF, some .write, none, .pageFault 3⟩] })
    ⟨14, "#PF", some 3, some 0x2000, 0x1000⟩ = true := by
  decide

/-- M12: the second page of an operand is not present. -/
theorem test_M12 : faults (step { (long64 [0xD1, 0x03]).setGreg 3 (greg 0x2FFE) with
    translation := [⟨0x3000, 0xFFFFFFFFFFFFFFFF, some .write, none, .pageFault 2⟩] })
    ⟨14, "#PF", some 2, some 0x3000, 0x1000⟩ = true := by
  decide

/-- M14: LOCK beats a memory fault. -/
theorem test_M14 : faults (step ((long64 [0xF0, 0xD1, 0x03]).setGreg 3 (greg 0x800000000000)))
    ⟨6, "#UD", none, none, 0x1000⟩ = true := by
  decide

/-- M16: the GS base is added. -/
theorem test_M16 : stores (step { (withBytes (long64 [0x65, 0xD0, 0x03]) 0x5010 [0x81]).setGreg 3 (greg 0x10) with
    gs := ⟨0, 0x5000, [], true⟩ }) 0x5010 [0x03] true = true := by
  decide

/-- M17: a null DS selector. -/
theorem test_M17 : faults (step { (protected32 [0xD1, 0x03]).setGreg 3 (greg 0x2000) with
    ds := { flat with selector := 3 } }) ⟨13, "#GP", some 0, none, 0x1000⟩ = true := by
  decide

/-- M18: a CS override in protected mode. -/
theorem test_M18 : faults (step ((protected32 [0x2E, 0xD1, 0x03]).setGreg 3 (greg 0x2000)))
    ⟨13, "#GP", some 0, none, 0x1000⟩ = true := by
  decide

/-- M20: outside the SS limit. -/
theorem test_M20 : faults (step { (protected32 [0xD1, 0x45, 0x00]).setGreg 5 (greg 0xFFFD) with
    ss := { flat with offsets := [⟨0, 0xFFFF⟩] } }) ⟨12, "#SS", some 0, none, 0x1000⟩ = true := by
  decide

/-- M21: the last dword inside the limit, with a segment base. -/
theorem test_M21 : stores (step { (withBytes (protected32 [0xD1, 0x03]) 0x10FFFC [0x01, 0x00, 0x00, 0x80]).setGreg 3
    (greg 0xFFFC) with ds := ⟨8, 0x100000, [⟨0, 0xFFFF⟩], true⟩ }) 0x10FFFC [0x03, 0x00, 0x00, 0x00] true = true := by
  decide

/-- M22: a word at offset 0xFFFF in real mode does not wrap, and has no error code. -/
theorem test_M22 : faults (step ((real16 [0xD1, 0x07]).setGreg 3 (greg 0xFFFF)))
    ⟨13, "#GP", none, none, 0x1000⟩ = true := by
  decide

/-- M27: a CS override writes in real mode. -/
theorem test_M27 : stores (step ((withBytes (real16 [0x2E, 0xD0, 0x07]) 0x100 [0x01]).setGreg 3 (greg 0x100)))
    0x100 [0x02] false = true := by
  decide

/-- P7: RIP-relative, and the bytes of the next instruction are rewritten. -/
theorem test_P7 : stores (step (long64 [0xC0, 0x05, 0x01, 0x00, 0x00, 0x00, 0x01, 0xD0, 0x64])) 0x1007
    [0xD0, 0xC8] false = true := by
  decide

/-! ## The table word, and the reset state -/

/-- The word of `RCL r/m8, 1` with BL. -/
theorem test_table_word : decodeTableWord 16 0xD0D3 = some (.rclRm8One [] (.reg 3)) := by
  decide

/-- From reset, the next step runs the instruction a table word names. -/
theorem test_fetch_word : leaves (step (State.reset.withFetchWord 16 0xD0D3)) 3 0 false (some false) 0xEFF2 = true := by
  decide

/-- TF = 1 is refused. -/
theorem test_trap_refused :
    step { State.reset with flags := { Flags.atReset with tf := true } } = .refused .singleStep := by
  rfl

/-! ## The hypotheses of the statements can be met, each clause of them -/

theorem witness_DecodeEncode : wellFormed .long64 false (.rclRm64Imm [.seg .fs] ⟨false, true, true⟩
    (.sib 3 4 5 (.d32 0x80000000)) 0xFF) = true := by
  decide

theorem witness_EncodeDecode : decode .v86 false [0xD3, 0xD3, 0x90] = .ok (.rclRm16Cl [] none (.reg 3), [0x90]) := by
  decide

theorem witness_ShiftGroupRefused : groupsDistinct [.opsize, .seg .gs] = true
    ∧ 0xC1#8 ∈ [0xC0#8, 0xC1#8, 0xD0#8, 0xD1#8, 0xD2#8, 0xD3#8] ∧ 4 ≤ ((0xE0#8).extractLsb' 3 3).toNat := by
  decide

/-- The REX byte of `ShiftGroupRefused`: `49 C1 E7 3F` is SHL R15, 63, and `66 49 D1 F8` a shift of AX. -/
theorem witness_ShiftGroupRefused_rex : rexByte ⟨true, ⟨false, false, true⟩⟩ = 0x49
    ∧ decode .long64 false [0x49, 0xC1, 0xE7, 0x3F] = .error (.reject (.shiftGroup 4))
    ∧ decode .long64 false [0x66, 0x49, 0xD1, 0xF8] = .error (.reject (.shiftGroup 7)) := by
  decide

/-- The shortest rotate, and the longest (30_encoding.md R116). -/
theorem witness_LengthBounds : wellFormed .long64 false (.rolRm8One [] (.reg 0)) = true
    ∧ wellFormed .long64 false (.rolRm16Imm [.lock, .seg .gs, .opsize, .addrsize] (some ⟨false, false, false⟩)
      (.sib 0 0 0 (.d32 0)) 1) = true
    ∧ (encode (.rolRm8One [] (.reg 0))).length = 2
    ∧ (encode (.rolRm16Imm [.lock, .seg .gs, .opsize, .addrsize] (some ⟨false, false, false⟩)
      (.sib 0 0 0 (.d32 0)) 1)).length = 13 := by
  decide

theorem witness_NoRexOutsideLong64 : decode .compat true [0xD1, 0xC0] = .ok (.rolRm32One [] none (.reg 0), []) := by
  decide

/-- Code for the witnesses of the step: `ROL BL, 1`. -/
def rolBl : State := long64 [0xD0, 0xC3]

theorem witness_StepRunsDecoded : rolBl.flags.tf = false ∧
    decode rolBl.mode rolBl.csD rolBl.fetchWindow.1 = .ok (.rolRm8One [] (.reg 3), List.replicate 13 0) := by
  decide

theorem witness_StepRunsEncoded : wellFormed rolBl.mode rolBl.csD (.rolRm8One [] (.reg 3)) = true
    ∧ ∀ j (h : j < (encode (.rolRm8One [] (.reg 3))).length), ∃ pa, rolBl.fetchAddress j = .ok pa
      ∧ Memory.read rolBl.mem pa = (encode (.rolRm8One [] (.reg 3)))[j] := by
  refine ⟨by decide, fun j h => ?_⟩
  match j, h with
  | 0, _ => exact ⟨0x1000, by decide, rfl⟩
  | 1, _ => exact ⟨0x1001, by decide, rfl⟩

theorem witness_FetchSeesMemory : rolBl.fetchAddress 14 = .ok 0x100E
    ∧ ∀ k < 14, rolBl.fetchAddress k = .ok (0x1000 + BitVec.ofNat 64 k) := by
  decide

/-- Each clause of `FetchFaults`: the offset just past the CS limit; the first address that is not
canonical; a page without execute permission, in 64-bit and in protected mode. -/
theorem witness_FetchFaults :
    (let s := { State.reset with rip := 0x10000 };
      s.mode ≠ .long64 ∧ s.cs.covers s.ip.toNat = false)
    ∧ (let s := { rolBl with rip := 0x800000000000 };
      s.mode = .long64 ∧ canonical s.vaBits s.rip = false)
    ∧ (let s := { rolBl with translation := [⟨0, 0xFFFF, some .execute, none, .pageFault 0x11⟩] };
      s.mode = .long64 ∧ canonical s.vaBits s.rip = true ∧ s.translate s.rip .execute = .pageFault 0x11)
    ∧ (let s := { protected32 [] with cr0 := 0x80000001, translation := [⟨0, 0xFFFF, some .execute, none, .pageFault 0x11⟩] };
      s.mode ≠ .long64 ∧ s.cs.covers s.ip.toNat = true
        ∧ s.translate (s.linear .cs s.ip 0) .execute = .pageFault 0x11) := by
  decide

theorem witness_TrapRefused : ({ State.reset with flags := { Flags.atReset with tf := true } } : State).flags.tf = true :=
  rfl

theorem witness_ZeroAmounts : rotateAmount .rcl .b8 27 = 0 ∧ rotateAmount .ror .b16 16 = 0
    ∧ rotateAmount .rcr .b16 17 = 0 ∧ rotateAmount .rol .b64 63 = 63 := by
  decide

/-- A rotation by 0 < t < n, at the ends of the range. -/
theorem witness_RotationLaws : rolLoop 1 (0x81#8) = rorLoop 7 (0x81#8) ∧ rolLoop 7 (0x81#8) = rorLoop 1 (0x81#8) := by
  decide

/-- Register forms of a mnemonic with masked counts 0, 1 and greater. -/
def countsMet (o : RotOp) (i j k : Instr) (s : State) : Bool :=
  [i, j, k].all (fun i => (view i).op = o && (view i).dst = .reg 3 && !(view i).pre.contains .lock)
    && maskedCountOf (view i) s = 0 && maskedCountOf (view j) s = 1 && 1 < maskedCountOf (view k) s

theorem witness_RclRegister : countsMet .rcl (.rclRm32Imm [] none (.reg 3) 32) (.rclRm8One [] (.reg 3))
    (.rclRm64Imm [] ⟨false, false, false⟩ (.reg 3) 63) rolBl = true := by
  decide

theorem witness_RcrRegister : countsMet .rcr (.rcrRm32Imm [] none (.reg 3) 32) (.rcrRm8One [] (.reg 3))
    (.rcrRm64Imm [] ⟨false, false, false⟩ (.reg 3) 63) rolBl = true := by
  decide

theorem witness_RolRegister : countsMet .rol (.rolRm32Imm [] none (.reg 3) 32) (.rolRm8One [] (.reg 3))
    (.rolRm64Imm [] ⟨false, false, false⟩ (.reg 3) 63) rolBl = true := by
  decide

theorem witness_RorRegister : countsMet .ror (.rorRm32Imm [] none (.reg 3) 32) (.rorRm8One [] (.reg 3))
    (.rorRm64Imm [] ⟨false, false, false⟩ (.reg 3) 63) rolBl = true := by
  decide

/-- Each kind of register destination, for `RegisterFrame` and `RegisterMerge`. -/
theorem witness_RegisterMerge : registerPlace .rm8 3 = .low 3 ∧ registerPlace .rm8 7 = .high 3
    ∧ registerPlace (.rm8x ⟨false, ⟨false, false, true⟩⟩) 7 = .low 15 ∧ registerPlace (.rm16 none) 7 = .low 7
    ∧ registerPlace (.rm32 none) 0 = .low 0 ∧ rolBl.mode = .long64 ∧ State.reset.mode ≠ .long64
    ∧ Legacy.lock ∉ (view (.rolRm32One [] none (.reg 0))).pre := by
  decide

theorem witness_CountReadFirst : registerPlace .rm8 1 = .low 1 ∧ registerPlace .rm8 5 = .high 1
    ∧ (view (.rolRm8Cl [] (.reg 5))).count = .cl ∧ (codeWith [] 1 3 3 false).cl = 3 := by
  decide

/-- A dword in memory at 0x2000 for `ROL dword ptr [RBX], imm8`. -/
def dwordAt : State := (withBytes (long64 [0xC1, 0x03, 0x08]) 0x2000 [0x44, 0x33, 0x22, 0x11]).setGreg 3 (greg 0x2000)

theorem witness_OperandAccessible (o : RotOp) :
    let i := ofView ⟨o, .imm 8, .rm32 none, [], .mem 3 .none⟩;
    isMemory i ∧ segmentPasses i dwordAt ∧ ¬operandMisaligned i dwordAt ∧ operandMapped i dwordAt := by
  cases o <;>
    exact ⟨fun rm h => (nomatch h), ⟨by unfold operandCanonical; decide, by decide⟩, fun h => (nomatch h.2.1),
      fun j _ => ⟨_, rfl⟩⟩

/-- The hypotheses of `RclMemory`, `RcrMemory`, `RolMemory` and `RorMemory`. -/
theorem witness_Memory : [RotOp.rol, .ror, .rcl, .rcr].all (fun o =>
    let i := ofView ⟨o, .imm 8, .rm32 none, [], .mem 3 .none⟩;
    (view i).op = o && !(view i).pre.contains .lock
      && decide (memoryOperand (view i) dwordAt = .ok [0x2000, 0x2001, 0x2002, 0x2003])) = true
    ∧ [(0x2000 : Word64), 0x2001, 0x2002, 0x2003].Nodup := by
  decide

theorem witness_LittleEndian : [(0xFFFFFFFFFFFFFFFF : Word64), 0].Nodup
    ∧ [(0xFFFFFFFFFFFFFFFF : Word64), 0].length = OpSize.b16.bytes := by
  decide

/-- RBX holds 0x1000, RBP 0xFFFFFFFF00002000, R12 0x30 and R13 0x4000. -/
def pointers (s : State) : State :=
  (((s.setGreg 3 (greg 0x1000)).setGreg 5 (greg 0xFFFFFFFF00002000)).setGreg 12 (greg 0x30)).setGreg 13 (greg 0x4000)

/-- `EffectiveAddress`: index number 4 adds nothing without REX.X and is R12 with it; each form of
displacement; the sum at 64, 32 and 16 bits; `abs32` in 64-bit mode and outside. -/
theorem witness_EffectiveAddress :
    (5#4).toNat = extendedNumber (.rm32 none) Rxb.b 5 ∧ (4#4).toNat = extendedNumber (.rm32 none) Rxb.x 4
    ∧ (13#4).toNat = extendedNumber (.rm32 (some ⟨false, true, true⟩)) Rxb.b 5
    ∧ (12#4).toNat = extendedNumber (.rm32 (some ⟨false, true, true⟩)) Rxb.x 4
    ∧ (let s := pointers (long64 []);
      let w : Row := .rm32 (some ⟨false, true, true⟩);
      effectiveAddress s .a64 w 0x1004 (.sib 3 4 5 (.d8 0xFF)) = 0x417F
        ∧ effectiveAddress s .a64 w 0x1004 (.sib 3 4 5 (.d32 0x10000)) = 0x14180
        ∧ effectiveAddress s .a64 (.rm32 none) 0x1004 (.sib 3 4 3 .none) = 0x1000
        ∧ effectiveAddress s .a64 (.rm32 none) 0x1004 (.sib 3 4 3 (.d8 0x80)) = 0xF80
        ∧ effectiveAddress s .a64 w 0x1004 (.sibAbs 1 4 0xFFFFFFF0) = 0x50
        ∧ effectiveAddress s .a64 (.rm32 none) 0x1004 (.sibAbs 1 4 0xFFFFFFF0) = 0xFFFFFFFFFFFFFFF0
        ∧ effectiveAddress s .a32 (.rm32 none) 0x1004 (.mem 5 .none) = 0x2000
        ∧ effectiveAddress s .a64 (.rm32 none) 0x1004 (.abs32 0xFFFFEFFB) = 0xFFFFFFFFFFFFFFFF)
    ∧ effectiveAddress State.reset .a32 (.rm32 none) 0x1004 (.abs32 0xFFFFEFFB) = 0xFFFFEFFB
    ∧ (long64 []).mode = .long64 ∧ State.reset.mode ≠ .long64 := by
  decide

/-- `EffectiveAddress16`: the sum wraps at 16 bits, and displacements of 8 bits are signed. -/
theorem witness_EffectiveAddress16 :
    (let s := ((real16 []).setGreg 5 (greg 0x1FFFF)).setGreg 6 (greg 0x10002);
      (s.greg 5).word.toNat % 2 ^ 16 = 0xFFFF ∧ (s.greg 6).word.toNat % 2 ^ 16 = 2
        ∧ effectiveAddress s .a16 (.rm16 none) 0 (.mem16 .bpSi .none) = 1
        ∧ effectiveAddress s .a16 (.rm16 none) 0 (.mem16 .bpSi (.d8 0x80)) = 0xFF81
        ∧ effectiveAddress s .a16 (.rm16 none) 0 (.mem16 .si (.d16 0x8000)) = 0x8002) := by
  decide

/-- Each clause of `SegmentChoice`: the overrides, among prefixes of different groups; base registers 4 and
5 without REX.B, and 12 and 13 with it. -/
theorem witness_SegmentChoice : overrideOf [.opsize, .seg .gs] = some .gs ∧ overrideOf [.seg .fs] = some .fs
    ∧ overrideOf [.lock] = none ∧ overrideOf [.seg .cs] = some .cs
    ∧ groupsDistinct [.lock, .opsize, .addrsize, .seg .gs] = true
    ∧ defaultSegment (.rm64 ⟨false, false, false⟩) (.sib 0 0 4 .none) = .ss
    ∧ defaultSegment (.rm64 ⟨false, false, true⟩) (.sib 0 0 4 .none) = .ds
    ∧ defaultSegment .rm8 (.mem 5 (.d8 0)) = .ss
    ∧ defaultSegment (.rm8x ⟨false, ⟨false, false, true⟩⟩) (.mem 5 (.d8 0)) = .ds
    ∧ defaultSegment .rm8 (.mem 4 .none) = .ds := by
  decide

theorem witness_PagingOff : State.reset.mode = .real ∧ State.reset.cr0.getLsbD 31 = false := by
  decide

/-- The hypotheses of `ZeroCountFlags`, `OtherFlagsKept` and `PcNext`, in 64-bit and in real mode. -/
theorem witness_PcNext :
    (let i : Instr := .rolRm32Imm [] none (.reg 0) 32;
      Legacy.lock ∉ (view i).pre ∧ destination (view i) rolBl = .ok (.low 0) ∧ maskedCountOf (view i) rolBl = 0
        ∧ destination (view i) State.reset = .ok (.low 0) ∧ maskedCountOf (view i) State.reset = 0) := by
  decide

theorem witness_LockFaults : Legacy.lock ∈ (view (.rolRm8One [.lock] (.reg 0))).pre
    ∧ (let s := long64 [0xD0, 0xE0];
      s.flags.tf = false ∧ decode s.mode s.csD s.fetchWindow.1 = .error (.reject (.shiftGroup 4))) := by
  decide

/-- `ROL dword ptr [EBX], 1` with a segment override. -/
def rolSeg (r : SegReg) : Instr := .rolRm32One [.seg r] none (.mem 3 .none)

/-- The memory forms of the witnesses below are memory forms without LOCK. -/
theorem witness_memory_forms (r : SegReg) : isMemory (rolSeg r) ∧ Legacy.lock ∉ (view (rolSeg r)).pre
    ∧ isMemory (.rolRm16One [.seg r] none (.mem16 .bx .none)) ∧ isMemory (.rolRm32One [] none (.mem 5 (.d8 0))) :=
  ⟨fun _ h => (nomatch h), by cases r <;> decide, fun _ h => (nomatch h), fun _ h => (nomatch h)⟩

/-- Each clause of `LinearAddress`, the sum wrapping: no base in 64-bit mode but that of FS and GS; the base
of DS in protected mode. -/
theorem witness_LinearAddress :
    (let s := { (long64 []).setGreg 3 (greg 0xFFFFFFFFFFFFFFFF) with
      ds := { flat with base := 0x100 }, fs := { flat with base := 0x200 }, gs := { flat with base := 0x300 } };
      s.mode = .long64 ∧ operandSegment (rolSeg .ds) s = .ds ∧ operandSegment (rolSeg .es) s = .ds
        ∧ operandSegment (rolSeg .fs) s = .fs ∧ operandSegment (rolSeg .gs) s = .gs
        ∧ operandLinear (rolSeg .ds) s 1 = 0 ∧ operandLinear (rolSeg .fs) s 1 = 0x200
        ∧ operandLinear (rolSeg .gs) s 1 = 0x300)
    ∧ (let s := { (protected32 []).setGreg 3 (greg 0xFFFFFFFF) with ds := { flat with base := 0x100 } };
      s.mode ≠ .long64 ∧ operandSegment (rolSeg .ds) s = .ds ∧ operandLinear (rolSeg .ds) s 1 = 0x100) := by
  decide

/-- `OperandLimit`: a word at the last offset of 16-bit addressing is past `2^16 - 1`, whatever the limit;
each mode and CS.D. -/
theorem witness_OperandLimit :
    (let i : Instr := .rolRm16One [] none (.mem16 .bx .none);
      let s := { (real16 []).setGreg 3 (greg 0xFFFF) with ds := flat };
      s.mode = .real ∧ operandInLimit i s = false ∧ s.addressSize (view i) = .a16
        ∧ operandInLimit i (s.setGreg 3 (greg 0xFFFE)) = true)
    ∧ (long64 []).addressSize (view (rolSeg .fs)) = .a64 ∧ (long64 []).mode = .long64
    ∧ (protected32 []).addressSize (view (rolSeg .fs)) = .a32 ∧ (protected32 []).mode = .prot
    ∧ (protected32 []).csD = true
    ∧ ({ protected32 [] with csD := false }).addressSize (view (rolSeg .fs)) = .a16 := by
  decide

/-- Each clause of `DecodedSize`. -/
theorem witness_DecodedSize :
    decode .long64 false [0x48, 0xD1, 0xC0] = .ok (.rolRm64One [] ⟨false, false, false⟩ (.reg 0), [])
    ∧ decode .long64 false [0x66, 0xD1, 0xC0] = .ok (.rolRm16One [.opsize] none (.reg 0), [])
    ∧ decode .real false [0x66, 0xD1, 0xC0] = .ok (.rolRm32One [.opsize] none (.reg 0), [])
    ∧ decode .prot false [0xD1, 0xC0] = .ok (.rolRm16One [] none (.reg 0), [])
    ∧ decode .prot true [0x66, 0xD1, 0xC0] = .ok (.rolRm16One [.opsize] none (.reg 0), []) := by
  decide

/-- Each clause of `ProtectedSegmentFaults`, the limit at its last byte. -/
theorem witness_ProtectedSegmentFaults :
    (let s := { protected32 [] with ds := { flat with selector := 3 } };
      s.mode = .prot ∧ operandSegment (rolSeg .ds) s = .ds ∧ (s.seg .ds).null = true)
    ∧ operandSegment (rolSeg .cs) (protected32 []) = .cs
    ∧ (let s := { protected32 [] with ds := { flat with writable := false } };
      operandSegment (rolSeg .ds) s = .ds ∧ (s.seg .ds).writable = false)
    ∧ (let s := { (protected32 []).setGreg 3 (greg 0xFFFD) with ds := { flat with offsets := [⟨0, 0xFFFF⟩] } };
      operandInLimit (rolSeg .ds) s = false)
    ∧ (let s := { (protected32 []).setGreg 3 (greg 0xFFFC) with ss := ⟨8, 0, [⟨0, 0xFFFF⟩], false⟩ };
      operandSegment (rolSeg .ss) s = .ss ∧ s.ss.writable = false ∧ operandInLimit (rolSeg .ss) s = true)
    ∧ (let s := { (protected32 []).setGreg 3 (greg 0xFFFD) with ss := ⟨8, 0, [⟨0, 0xFFFF⟩], true⟩ };
      s.ss.writable = true ∧ operandInLimit (rolSeg .ss) s = false) := by
  decide

/-- Each clause of `RealSegmentFaults`: a word at offset 0xFFFF. -/
theorem witness_RealSegmentFaults :
    (let i (r : SegReg) : Instr := .rolRm16One [.seg r] none (.mem16 .bx .none);
      let s := (real16 []).setGreg 3 (greg 0xFFFF);
      let v := { s with cr0 := 1, flags := { Flags.atReset with vm := true } };
      operandInLimit (i .ds) s = false ∧ operandInLimit (i .ss) s = false ∧ operandInLimit (i .ds) v = false
        ∧ operandInLimit (i .ss) v = false ∧ s.mode = .real ∧ v.mode = .v86 ∧ operandSegment (i .ds) s = .ds
        ∧ operandSegment (i .ss) v = .ss) := by
  decide

/-- Each clause of `Long64SegmentFaults`: the first bytes that are not canonical, and FS not writable. -/
theorem witness_Long64SegmentFaults :
    (let i : Instr := .rolRm32One [] none (.mem 5 (.d8 0));
      let s := (long64 []).setGreg 5 (greg 0x7FFFFFFFFFFD);
      s.mode = .long64 ∧ operandSegment i s = .ss ∧ canonical s.vaBits (operandLinear i s 3) = false)
    ∧ (let s := (long64 []).setGreg 3 (greg 0x7FFFFFFFFFFD);
      operandSegment (rolSeg .ds) s ≠ .ss ∧ canonical s.vaBits (operandLinear (rolSeg .ds) s 3) = false)
    ∧ (let s := { long64 [] with fs := ⟨0, 0x5000, [], false⟩ };
      (∀ j < 4, canonical s.vaBits (operandLinear (rolSeg .fs) s j) = true)
        ∧ (s.seg (operandSegment (rolSeg .fs) s)).writable = false) := by
  decide

/-- Alignment checking on, and a dword across two pages of which the second is not present. -/
def splitDword (base : Word64) (rules : List PageRule) : State :=
  { aligned3 ((long64 []).setGreg 3 (greg base)) with translation := rules }

/-- Each clause of `AlignmentAndPageFaults`: unaligned and mapped; aligned with a page fault at the last
byte; unaligned with one. -/
theorem witness_AlignmentAndPageFaults :
    (let s := splitDword 0x2001 [];
      operandMisaligned (rolSeg .ds) s ∧ operandMapped (rolSeg .ds) s ∧ segmentPasses (rolSeg .ds) s)
    ∧ (let s := splitDword 0x2000 [⟨0x2003, 0x2FFF, none, none, .pageFault 6⟩];
      ¬operandMisaligned (rolSeg .ds) s ∧ s.translate (operandLinear (rolSeg .ds) s 3) .write = .pageFault 6
        ∧ ∀ k < 3, ∃ pa, s.translate (operandLinear (rolSeg .ds) s k) .write = .ok pa)
    ∧ (let s := splitDword 0x2FFE [⟨0x3000, 0x3FFF, none, none, .pageFault 6⟩];
      operandMisaligned (rolSeg .ds) s ∧ s.translate (operandLinear (rolSeg .ds) s 2) .write = .pageFault 6
        ∧ ∀ k < 2, ∃ pa, s.translate (operandLinear (rolSeg .ds) s k) .write = .ok pa) := by
  refine ⟨⟨by unfold operandMisaligned; decide, fun j _ => ⟨_, rfl⟩, ⟨by unfold operandCanonical; decide, by decide⟩⟩,
    ⟨by unfold operandMisaligned; decide, by decide, fun k h => ?_⟩,
    ⟨by unfold operandMisaligned; decide, by decide, fun k h => ?_⟩⟩
  · match k, h with
    | 0, _ => exact ⟨_, rfl⟩
    | 1, _ => exact ⟨_, rfl⟩
    | 2, _ => exact ⟨_, rfl⟩
  · match k, h with
    | 0, _ => exact ⟨_, rfl⟩
    | 1, _ => exact ⟨_, rfl⟩

theorem witness_ByteNeverMisaligned : (view (.rolRm8One [] (.mem 3 .none))).row.size = .b8 := rfl

theorem witness_FaultKinds : exec (rolSeg .cs) (protected32 []) = .fault (.gp (some 0) 0x1000)
    ∧ exec (.rolRm8One [.lock] (.reg 0)) (real16 []) = .fault (.ud 0x1000) := by
  exact ⟨rfl, rfl⟩

/-- A state with the invariant and a step to a next state, for `ControlKept` and `InvariantKept`. -/
theorem witness_InvariantKept : rolBl.Inv ∧ ∃ t, step rolBl = .next t :=
  ⟨⟨by decide, by decide, by decide, by decide⟩, _, rfl⟩

/-! ## The end of a run -/

/-- A run ends where RIP reaches the end address (70_reset_and_hazards.md R363). -/
theorem test_run_ends : (match runTo 0x1002 rolBl 1 with
    | .finished t => t.rip = 0x1002
    | .fault _ _ => false
    | .refused _ _ => false
    | .running _ => false) = true := by
  decide

/-- An instruction past the CS limit in real mode faults at its fetch, with no error code (20_memory.md R76). -/
theorem test_fetch_limit : faults (step { State.reset with rip := 0x10000 }) ⟨13, "#GP", none, none, 0x10000⟩ = true := by
  decide

/-- An instruction cut off by the CS limit faults at its fetch (30_encoding.md R118). -/
theorem test_fetch_truncated : faults (step { real16 [0xC1, 0xC0] with cs := ⟨0, 0, [⟨0, 0x1001⟩], true⟩ })
    ⟨13, "#GP", none, none, 0x1000⟩ = true := by
  decide

end Sys2Proof.Tests
end

/-! ## Proofs about the state (spec/10_state.md): the facts they share -/

namespace Sys2Proof.Machine

/-! ### What a step can do -/

/-- A step that completes has TF 0 and decodes an instruction without LOCK, and it finishes that rotate at
its destination: the one inversion of `step` from which every invariant below follows. -/
theorem step_next {s t : State} (h : step s = .next t) :
    s.flags.tf = false ∧ ∃ i rest p, decode s.mode s.csD s.fetchWindow.1 = .ok (i, rest)
      ∧ Legacy.lock ∉ (view i).pre ∧ destination (view i) s = .ok p ∧ t = finish (view i) p s := by
  unfold step at h
  split at h
  · cases h
  · next htf =>
    split at h
    · next i rest hdec =>
      rw [exec_eq] at h
      obtain ⟨hlock, p, hp, ht⟩ := rotate_next h
      exact ⟨by simpa using htf, i, rest, p, hdec, hlock, hp, ht⟩
    · cases h
    · exact absurd h (raise_ne_next _ _ _)

/-- A register form without LOCK completes at the register its row names. -/
theorem exec_register {i : Instr} {s : State} {rm : BitVec 3} (hd : (view i).dst = .reg rm)
    (hl : Legacy.lock ∉ (view i).pre) :
    exec i s = .next (finish (view i) (registerPlace (view i).row rm) s) := by
  rw [exec_eq, rotate_finish hl (destination_reg hd)]

/-! ### Flags a rotate does not write -/

@[simp] theorem rotateFlags_vm (f : Flags) (m : Nat) (cf ov free : Bool) :
    (rotateFlags f m cf ov free).vm = f.vm := by
  rcases rotateFlags_cases f m cf ov free with ⟨-, h⟩ | ⟨-, h⟩ | ⟨-, h⟩ <;> rw [h]

@[simp] theorem rotateFlags_tf (f : Flags) (m : Nat) (cf ov free : Bool) :
    (rotateFlags f m cf ov free).tf = f.tf := by
  rcases rotateFlags_cases f m cf ov free with ⟨-, h⟩ | ⟨-, h⟩ | ⟨-, h⟩ <;> rw [h]

/-! ### Control state -/

section
variable {s t : State}

/-- The mode is a function of the control state and RFLAGS.VM (10_state.md R33). -/
theorem SameControl.mode_eq (h : SameControl s t) (hvm : t.flags.vm = s.flags.vm) : t.mode = s.mode := by
  unfold State.mode
  rw [h.cr0, h.efer, h.csL, hvm]

/-- The privilege level is a function of the mode and the CS selector (60_exceptions.md R330). -/
theorem SameControl.cpl_eq (h : SameControl s t) (hm : t.mode = s.mode) : t.cpl = s.cpl := by
  unfold State.cpl
  rw [hm, h.cs]

theorem SameControl.paging_eq (h : SameControl s t) (hm : t.mode = s.mode) : t.paging = s.paging := by
  unfold State.paging
  rw [hm, h.cr0]

end

/-- A rotate keeps the control state, whatever its destination. -/
theorem sameControl_finish (v : Rotate) (p : Place) (s : State) : SameControl s (finish v p s) := by
  constructor <;> simp

@[simp] theorem finish_mode (v : Rotate) (p : Place) (s : State) : (finish v p s).mode = s.mode :=
  (sameControl_finish v p s).mode_eq (by rw [finish_flags, rotateFlags_vm])

/-! ### The destination -/

/-- A write of a destination keeps the canonical form of memory. -/
theorem wf_writePlace {s : State} (n : OpSize) (v : BitVec n.bits) (p : Place) (h : Memory.wf s.mem) :
    Memory.wf (writePlace s n v p).mem := by
  cases p with
  | low r => exact h
  | high r => exact h
  | mem as => exact wf_writeAll as _ h

/-- The number of an extended register (30_encoding.md R103): REX's bit counts 8. -/
theorem regNumber_eq_ofNat (high : Bool) (low : BitVec 3) :
    regNumber high low = BitVec.ofNat 4 (low.toNat + if high then 8 else 0) := by
  cases high <;> revert low <;> decide

/-- A register operand names a register, by its low view or its high byte. -/
theorem registerPlace_cases (w : Row) (rm : BitVec 3) :
    ∃ r, registerPlace w rm = .low r ∨ registerPlace w rm = .high r := by
  cases w with
  | rm8 =>
    by_cases h : rm.getLsbD 2 = true
    · exact ⟨_, .inr (if_pos h)⟩
    · exact ⟨_, .inl (if_neg h)⟩
  | rm8x x => exact ⟨_, .inl rfl⟩
  | rm16 y => exact ⟨_, .inl rfl⟩
  | rm32 y => exact ⟨_, .inl rfl⟩
  | rm64 y => exact ⟨_, .inl rfl⟩

/-- The registers after a rotate are those its destination's write leaves. -/
theorem finish_greg (v : Rotate) (p : Place) (s : State) (q : BitVec 4) :
    (finish v p s).greg q = (writePlace s v.row.size (resultAt v p s).res p).greg q := rfl

section
variable {v : Rotate} {p : Place} {s : State} {r : BitVec 4}

/-- A rotate of a register leaves memory as it is. -/
theorem finish_mem_register (hp : p = .low r ∨ p = .high r) : (finish v p s).mem = s.mem := by
  rcases hp with rfl | rfl
  · rw [finish_mem, writePlace_low, setGreg_mem]
  · rw [finish_mem, writePlace_high, setGreg_mem]

/-- A rotate of a register leaves every other register as it is. -/
theorem finish_greg_other (hp : p = .low r ∨ p = .high r) {q : BitVec 4} (hq : q ≠ r) :
    (finish v p s).greg q = s.greg q := by
  rcases hp with rfl | rfl
  · rw [finish_greg, writePlace_low, setGreg_greg_other s _ hq]
  · rw [finish_greg, writePlace_high, setGreg_greg_other s _ hq]

end

/-! ### What a write through a view leaves of its register (10_state.md R23) -/

theorem put_b8_above (g : GReg) (u : Word32) {n : OpSize} (v : BitVec n.bits) (h : n = .b8) :
    (g.put u n v).lo.extractLsb' 8 24 = g.lo.extractLsb' 8 24 := by
  subst h
  exact BitVec.extractLsb'_append_eq_left

theorem put_b16_above (g : GReg) (u : Word32) {n : OpSize} (v : BitVec n.bits) (h : n = .b16) :
    (g.put u n v).lo.extractLsb' 16 16 = g.lo.extractLsb' 16 16 := by
  subst h
  exact BitVec.extractLsb'_append_eq_left

theorem put_b32_hi (g : GReg) (u : Word32) {n : OpSize} (v : BitVec n.bits) (h : n = .b32) :
    (g.put u n v).hi = u := by
  subst h
  rfl

theorem putHigh_above (g : GReg) (v : Byte) :
    (g.putHigh v).lo.extractLsb' 16 16 = g.lo.extractLsb' 16 16 :=
  (BitVec.extractLsb'_append_eq_of_le (by decide)).trans BitVec.extractLsb'_append_eq_left

theorem putHigh_below (g : GReg) (v : Byte) :
    (g.putHigh v).lo.extractLsb' 0 8 = g.lo.extractLsb' 0 8 :=
  BitVec.extractLsb'_append_eq_right

/-! ### The limit of a segment (10_state.md R32, 20_memory.md R63) -/

theorem opSize_bytes_pos (n : OpSize) : 0 < n.bytes := by
  cases n <;> decide

theorem covers_iff (g : Seg) (offset : Nat) :
    g.covers offset = true ↔ ∃ r ∈ g.offsets, r.first ≤ offset ∧ offset ≤ r.last := by
  simp [Seg.covers]

/-- An operand of at least one byte is inside the limit when each of its bytes is: the last one decides
the test against the address size. -/
theorem inLimit_iff (g : Seg) (a : AddrSize) (ea : Nat) {k : Nat} (hk : 0 < k) :
    g.inLimit a ea k = true ↔
      ∀ j < k, ea + j ≤ 2 ^ a.bits - 1 ∧ ∃ r ∈ g.offsets, r.first ≤ ea + j ∧ ea + j ≤ r.last := by
  have hpos : 0 < 2 ^ a.bits := Nat.two_pow_pos _
  have hlast : ea + k ≤ 2 ^ a.bits ↔ ∀ j < k, ea + j ≤ 2 ^ a.bits - 1 :=
    ⟨fun h j hj => by omega, fun h => by have := h (k - 1) (by omega); omega⟩
  simp only [Seg.inLimit, Bool.and_eq_true, decide_eq_true_eq, List.all_eq_true, List.mem_range, covers_iff,
    hlast, ← forall_and]

/-! ### The address size (30_encoding.md R108) -/

theorem addressSize_long64 (csD : Bool) (pre : List Legacy) :
    addressSize .long64 csD pre = if Legacy.addrsize ∈ pre then .a32 else .a64 := by
  simp [addressSize]

/-- Where the default is 16 bits, `67` selects 32. -/
theorem addressSize_of_default16 {m : Mode} {csD : Bool} (pre : List Legacy) (h : default16 m csD = true) :
    addressSize m csD pre = if Legacy.addrsize ∈ pre then .a32 else .a16 := by
  cases m <;> simp_all [addressSize, default16]

/-- Where the default is 32 bits, `67` selects 16. -/
theorem addressSize_of_default32 {m : Mode} {csD : Bool} (pre : List Legacy) (hm : m ≠ .long64)
    (h : default16 m csD = false) :
    addressSize m csD pre = if Legacy.addrsize ∈ pre then .a16 else .a32 := by
  cases m <;> simp_all [addressSize, default16]

/-! ### RFLAGS as a word (10_state.md R27) -/

/-- Bits 0 to 21 of RFLAGS in their order, the reserved ones at their constants. -/
def flagBits (f : Flags) : List Bool :=
  [f.cf, true, f.pf, false, f.af, false, f.zf, f.sf, f.tf, f.ie, f.df, f.of, f.iopl.getLsbD 0,
    f.iopl.getLsbD 1, f.nt, false, f.rf, f.vm, f.ac, f.vif, f.vip, f.id]

/-- Each bit of the word is the bit of `flagBits` there, and 0 past its end. -/
theorem getLsbD_rflagsWord (f : Flags) (k : Nat) :
    (rflagsWord f).getLsbD k = (flagBits f)[k]?.getD false := by
  simp only [rflagsWord, BitVec.getLsbD_append, BitVec.getLsbD_ofBool, flagBits]
  rcases Nat.lt_or_ge k 22 with hk | hk
  · interval_cases k <;> simp
  · obtain ⟨j, rfl⟩ := Nat.exists_eq_add_of_le' hk
    simp

/-- IOPL, the one named field of two bits, comes back from bits 13:12. -/
theorem iopl_of_rflagsWord (f : Flags) : (rflagsWord f).extractLsb' 12 2 = f.iopl := by
  ext k hk
  rw [BitVec.getElem_extractLsb', getLsbD_rflagsWord]
  interval_cases k <;> simp [flagBits]

/-- The named bits come back from the word. -/
theorem flagsOfWord_rflagsWord (f : Flags) : flagsOfWord (rflagsWord f) = f := by
  simp only [flagsOfWord, getLsbD_rflagsWord, iopl_of_rflagsWord]
  rfl

/-! ### The views of a register (10_state.md R22) -/

theorem GReg.toNat_word (g : GReg) : g.word.toNat = g.hi.toNat * 2 ^ 32 + g.lo.toNat := by
  rw [GReg.word, BitVec.toNat_append, ← Nat.shiftLeft_add_eq_or_of_lt g.lo.isLt, Nat.shiftLeft_eq]

theorem GReg.toNat_view (g : GReg) (n : OpSize) : (g.view n).toNat = g.word.toNat % 2 ^ n.bits := by
  have hw := g.toNat_word
  cases n with
  | b8 =>
    change (g.lo.setWidth 8).toNat = g.word.toNat % 2 ^ 8
    rw [BitVec.toNat_setWidth]
    omega
  | b16 =>
    change (g.lo.setWidth 16).toNat = g.word.toNat % 2 ^ 16
    rw [BitVec.toNat_setWidth]
    omega
  | b32 =>
    change g.lo.toNat = g.word.toNat % 2 ^ 32
    omega
  | b64 => exact (Nat.mod_eq_of_lt g.word.isLt).symm

theorem GReg.toNat_highByte (g : GReg) : g.highByte.toNat = g.word.toNat / 2 ^ 8 % 2 ^ 8 := by
  have hw := g.toNat_word
  rw [GReg.highByte, BitVec.extractLsb'_toNat, Nat.shiftRight_eq_div_pow]
  omega

/-! ### The state after reset (10_state.md R36) -/

/-- CR0.PE is 0 after reset (70_reset_and_hazards.md R350). -/
theorem reset_mode : State.reset.mode = .real := rfl

/-- The first byte is fetched at the CS base plus IP. -/
theorem reset_fetchAddress : State.reset.fetchAddress 0 = .ok 0xFFFFFFF0 := rfl

theorem reset_greg (r : BitVec 4) : State.reset.greg r = ⟨0, 0⟩ :=
  Vector.getElem_replicate _

/-! ## The obligations -/

/-- Settles O50: what a step leaves is a finished rotate, which writes no control field and not
RFLAGS.VM, of which mode, privilege and paging are functions. -/
theorem controlKept : Obligations.ControlKept := by
  intro s t h
  obtain ⟨-, i, -, p, -, -, -, rfl⟩ := step_next h
  have hc := sameControl_finish (view i) p s
  have hm := finish_mode (view i) p s
  exact ⟨hc, hm, hc.cpl_eq hm, hc.paging_eq hm⟩

/-- Settles O51, one clause of the invariant after the other over the finished rotate. -/
theorem invariantKept : Obligations.InvariantKept := by
  intro s t hi h
  obtain ⟨-, i, -, p, -, -, -, rfl⟩ := step_next h
  have hm := finish_mode (view i) p s
  exact {
    mem := wf_writePlace _ _ p hi.mem
    trap := by rw [finish_flags, rotateFlags_tf, hi.trap]
    size := fun h => by rw [finish_csD, hi.size (hm.symm.trans h)]
    eip := fun h => narrow_lt (hm ▸ h) _ }

/-- Settles O23: the destination is a register, whose write leaves memory and the other registers. -/
theorem registerFrame : Obligations.RegisterFrame := by
  intro i s rm hd hl
  obtain ⟨r, hp⟩ := registerPlace_cases (view i).row rm
  refine ⟨_, exec_register hd hl, fun a => by rw [finish_mem_register hp], fun q hlow hhigh => ?_,
    sameControl_finish _ _ s⟩
  refine finish_greg_other hp fun hq => ?_
  subst hq
  exact hp.elim hlow hhigh

/-- Settles O24: each clause is what the write through that view leaves of the register's old value. -/
theorem registerMerge : Obligations.RegisterMerge := by
  intro i s rm q hd hl
  refine ⟨_, exec_register hd hl, fun hp hn => ?_, fun hp => ?_, fun hp hn => ?_, fun hp hn => ?_⟩
  all_goals rw [hp, finish_greg]
  · rw [writePlace_low, setGreg_greg]
    exact ⟨put_hi _ _ _ _ (.inl hn), put_b8_above _ _ _ hn⟩
  · rw [writePlace_high, setGreg_greg]
    exact ⟨putHigh_hi _ _, putHigh_above _ _, putHigh_below _ _⟩
  · rw [writePlace_low, setGreg_greg]
    exact ⟨put_hi _ _ _ _ (.inr hn), put_b16_above _ _ _ hn⟩
  · rw [writePlace_low, setGreg_greg]
    exact put_b32_hi _ _ _ hn

/-- Settles O55: the limit from `inLimit_iff`, an operand having a byte; the address size from the default
of the mode and of CS.D. -/
theorem operandLimit : Obligations.OperandLimit := by
  rintro i s _ _ rfl rfl
  refine ⟨inLimit_iff _ _ _ (opSize_bytes_pos _), fun hm => ?_, fun hm => ?_, fun hm hd => ?_, fun hm hd => ?_⟩
  · rw [State.addressSize, hm, addressSize_long64]
  · exact addressSize_of_default16 _ (by rcases hm with h | h <;> rw [h] <;> rfl)
  · exact addressSize_of_default16 _ (by rcases hm with h | h <;> rw [h, hd] <;> rfl)
  · exact addressSize_of_default32 _ (by rcases hm with h | h <;> rw [h] <;> decide)
      (by rcases hm with h | h <;> rw [h, hd] <;> rfl)

/-- Settles O25: the eight byte numbers without REX one by one, every other row by `regNumber_eq_ofNat`. -/
theorem byteRegisters : Obligations.ByteRegisters := by
  refine ⟨by decide, by decide, fun x rm => ?_, fun rm => ⟨?_, ?_⟩, fun y rm => ⟨?_, ?_, ?_⟩⟩
  all_goals exact congrArg Place.low (regNumber_eq_ofNat _ rm)

/-- Settles O38: every clause reads a bit of the word through `getLsbD_rflagsWord`. -/
theorem reservedFlags : Obligations.ReservedFlags := by
  intro f
  simp only [getLsbD_rflagsWord]
  exact ⟨flagsOfWord_rflagsWord f, rfl, rfl, rfl, rfl, fun k hk => by
    rw [List.getElem?_eq_none hk, Option.getD_none]⟩

/-- Settles O52: memory is empty, TF is 0, and EIP is `0xFFF0`; the machine is not in 64-bit mode. -/
theorem invariantAtReset : Obligations.InvariantAtReset := by
  have hm : State.reset.mode ≠ .long64 := by rw [reset_mode]; decide
  exact ⟨⟨wf_reset, rfl, fun h => absurd h hm, fun _ => by decide⟩, rfl, fun h => absurd h hm, wf_reset⟩

/-- Settles O53: the first fetch is at the CS base plus IP; every register is 0, so the two the statement
leaves out are not needed. -/
theorem resetState : Obligations.ResetState := by
  refine ⟨reset_mode, rfl, rfl, rfl, rfl, rfl, reset_fetchAddress, rfl, rfl, rfl, rfl, rfl, rfl, rfl, rfl, rfl,
    fun r _ _ => ?_⟩
  rw [reset_greg]
  rfl

/-- Settles O57, each view being an arithmetic part of the register's 64 bits. -/
theorem registerViews : Obligations.RegisterViews :=
  fun g => ⟨g.toNat_word, g.toNat_view, g.toNat_highByte⟩

end Sys2Proof.Machine

/-! ## Proofs about memory (spec/20_memory.md): the facts they share -/

namespace Sys2Proof.Machine

/-! ### Addresses (20_memory.md R63) -/

/-- Outside 64-bit mode an address is reduced modulo `2^32`. -/
theorem toNat_narrow {s : State} (h : s.mode ≠ .long64) (a : Word64) :
    (s.narrow a).toNat = a.toNat % 2 ^ 32 := by
  unfold State.narrow
  rw [if_neg h, BitVec.toNat_setWidth, BitVec.toNat_setWidth]
  omega

theorem ip_long64 {s : State} (h : s.mode = .long64) : s.ip = s.rip :=
  narrow_long64 h s.rip

/-- In 64-bit mode only FS and GS have a base; elsewhere every segment has its record's. -/
theorem segBase_eq (s : State) (r : SegReg) :
    s.segBase r = if s.mode = .long64 ∧ r ≠ .fs ∧ r ≠ .gs then 0 else (s.seg r).base := by
  unfold State.segBase
  cases s.mode <;> cases r <;> rfl

theorem toNat_linear_long64 {s : State} (h : s.mode = .long64) (r : SegReg) (ea : Word64) (j : Nat) :
    (s.linear r ea j).toNat = ((s.segBase r).toNat + ea.toNat + j) % 2 ^ 64 := by
  rw [State.linear, narrow_long64 h, BitVec.toNat_add, BitVec.toNat_add, BitVec.toNat_ofNat]
  omega

theorem toNat_linear {s : State} (h : s.mode ≠ .long64) (r : SegReg) (ea : Word64) (j : Nat) :
    (s.linear r ea j).toNat = ((s.seg r).base.toNat + ea.toNat + j) % 2 ^ 32 := by
  rw [State.linear, toNat_narrow h, segBase_eq, if_neg fun hl => h hl.1, BitVec.toNat_add, BitVec.toNat_add,
    BitVec.toNat_ofNat]
  omega

/-! ### Canonical form (20_memory.md R69) -/

theorem vaBits_width_pos (v : VaBits) : 0 < v.width := by
  cases v <;> decide

/-- Sign extension from the low bits repeats their top bit above them. -/
theorem getLsbD_canonicalised (v : VaBits) (la : Word64) {k : Nat} (hk : k < 64) :
    ((la.setWidth v.width).signExtend 64).getLsbD k =
      if k < v.width then la.getLsbD k else la.getLsbD (v.width - 1) := by
  have hw := vaBits_width_pos v
  rw [BitVec.getLsbD_signExtend, BitVec.msb_eq_getLsbD_last, BitVec.getLsbD_setWidth, BitVec.getLsbD_setWidth]
  split <;> simp [*]

theorem canonical_iff (v : VaBits) (la : Word64) :
    canonical v la = true ↔ ∀ k, v.width - 1 ≤ k → k < 64 → la.getLsbD k = la.getLsbD (v.width - 1) := by
  have hw := vaBits_width_pos v
  rw [canonical, decide_eq_true_iff]
  constructor
  · intro h k hle hk
    rcases Nat.lt_or_ge k v.width with hlt | hge
    · rw [show k = v.width - 1 by omega]
    · rw [← h, getLsbD_canonicalised v la hk, if_neg (by omega), h]
  · intro h
    refine BitVec.eq_of_getLsbD_eq fun k hk => ?_
    rw [getLsbD_canonicalised v la hk]
    split
    · rfl
    · exact (h k (by omega) hk).symm

/-! ### Byte order (20_memory.md R61) -/

theorem littleEndian_append_singleton (bs : List Byte) (b : Byte) :
    littleEndian (bs ++ [b]) = littleEndian bs + 256 ^ bs.length * b.toNat := by
  induction bs with
  | nil => simp [littleEndian]
  | cons c bs ih =>
    simp only [List.cons_append, littleEndian, ih, List.length_cons]
    ring

/-- The first `k` bytes of a value are its low `8k` bits. -/
theorem littleEndian_extract {w : Nat} (v : BitVec w) (k : Nat) :
    littleEndian ((List.range k).map fun j => v.extractLsb' (8 * j) 8) = v.toNat % 256 ^ k := by
  induction k with
  | zero => simp [littleEndian, Nat.mod_one]
  | succ k ih =>
    have hk : 2 ^ (8 * k) = 256 ^ k := Nat.pow_mul 2 8 k
    rw [List.range_succ, List.map_append, List.map_singleton, littleEndian_append_singleton, ih, List.length_map,
      List.length_range, BitVec.extractLsb'_toNat, Nat.shiftRight_eq_div_pow, hk, pow_succ 256 k, Nat.mod_mul]

theorem littleEndian_bytesOf (n : OpSize) (v : BitVec n.bits) : littleEndian (bytesOf n v) = v.toNat := by
  have hn : 256 ^ n.bytes = 2 ^ n.bits := by cases n <;> rfl
  rw [bytesOf, littleEndian_extract, hn, Nat.mod_eq_of_lt v.isLt]

theorem getElem_readAll (m : List Host.Cell) (as : List Word64) (j : Nat) (h : j < as.length) :
    (Memory.readAll m as)[j]'(by rwa [Memory.readAll, List.length_map]) = Memory.read m as[j] :=
  List.getElem_map _

/-! ### Translation (20_memory.md R67) -/

theorem pageFaults_eq_nil {s : State} {acc : Access} {las : List Word64}
    (h : ∀ la ∈ las, ∃ pa, s.translate la acc = .ok pa) : s.pageFaults acc las = [] := by
  refine List.eq_nil_iff_forall_not_mem.2 fun f hf => ?_
  obtain ⟨hla, hfault⟩ := (mem_pageFaults s acc las f.1 f.2).1 hf
  obtain ⟨pa, hpa⟩ := h f.1 hla
  rw [hpa] at hfault
  cases hfault

/-- With no page fault each byte is where its linear address translates to. -/
theorem translate_physicals {s : State} {acc : Access} {las : List Word64} (h : s.pageFaults acc las = [])
    (j : Nat) (hj : j < las.length) (hp : j < (s.physicals acc las).length) :
    s.translate las[j] acc = .ok (s.physicals acc las)[j] := by
  induction las generalizing j with
  | nil => cases hj
  | cons la las ih =>
    unfold State.pageFaults at h
    split at h
    · next pa hpa =>
      have hcons : s.physicals acc (la :: las) = pa :: s.physicals acc las := by rw [State.physicals, hpa]
      cases j with
      | zero => simpa [hcons] using hpa
      | succ j =>
        simp only [hcons, List.getElem_cons_succ]
        exact ih h j _ _
    · cases h

/-- The fault reported is the one at a byte below which, by linear address, every byte translates. -/
theorem lowestFault_pageFaults {s : State} {acc : Access} {las : List Word64} {la : Word64} {code : Word32}
    (hla : la ∈ las) (hfault : s.translate la acc = .pageFault code)
    (hlow : ∀ l ∈ las, l.toNat < la.toNat → ∃ pa, s.translate l acc = .ok pa) :
    lowestFault (s.pageFaults acc las) = some (la, code) := by
  have hmem := (mem_pageFaults s acc las la code).2 ⟨hla, hfault⟩
  cases hf : lowestFault (s.pageFaults acc las) with
  | none => rw [lowestFault_none.1 hf] at hmem; cases hmem
  | some f =>
    obtain ⟨hfmem, hfle⟩ := lowestFault_le hf
    obtain ⟨hl, hcode⟩ := (mem_pageFaults s acc las f.1 f.2).1 hfmem
    have heq : f.1 = la := by
      refine BitVec.eq_of_toNat_eq (Nat.le_antisymm (hfle _ hmem) (Nat.le_of_not_lt fun hlt => ?_))
      obtain ⟨pa, hpa⟩ := hlow f.1 hl hlt
      rw [hpa] at hcode
      cases hcode
    rw [heq, hfault] at hcode
    cases hcode
    rw [← heq]

/-! ### Segments (10_state.md R32, 20_memory.md R64 to R66) -/

/-- `#SS` is for SS alone (60_exceptions.md R303). -/
theorem limitExn_eq (r : SegReg) : limitExn r = if r = .ss then .ss else .gp := by
  cases r <;> rfl

/-- A code segment is never writable in protected and compatibility mode. -/
theorem segWritable_protected {s : State} (h : s.mode = .prot ∨ s.mode = .compat) (r : SegReg) :
    s.segWritable r = (decide (r ≠ .cs) && (s.seg r).writable) := by
  unfold State.segWritable
  rcases h with h | h <;> rw [h] <;> cases r <;> rfl

theorem segWritable_long64 {s : State} (h : s.mode = .long64) (r : SegReg) :
    s.segWritable r = (s.seg r).writable := by
  unfold State.segWritable
  rw [h]

/-! ### The checks of an operand, in their order (20_memory.md R62, R70) -/

section
variable {s : State} {r : SegReg} {a : AddrSize} {ea la : Word64} {k : Nat} {las : List Word64} {e : Exn}
  {f : Word64 × Word32}

theorem operandBytes_of_segmentExn (h : s.segmentExn r a ea k = some e) : s.operandBytes r a ea k = .error e := by
  unfold State.operandBytes
  rw [h]

theorem operandBytes_of_accessExn (hs : s.segmentExn r a ea k = none)
    (h : s.accessExn (s.linears r ea k) (s.linear r ea 0) k = some e) : s.operandBytes r a ea k = .error e := by
  simp only [State.operandBytes, hs, h]

theorem operandBytes_of_passes (hs : s.segmentExn r a ea k = none)
    (h : s.accessExn (s.linears r ea k) (s.linear r ea 0) k = none) :
    s.operandBytes r a ea k = .ok (s.physicals .write (s.linears r ea k)) := by
  simp only [State.operandBytes, hs, h]

theorem accessExn_passes (hm : s.misaligned la k = false) (hf : s.pageFaults .write las = []) :
    s.accessExn las la k = none := by
  rw [State.accessExn, hm, lowestFault_none.2 hf]

theorem accessExn_alignment (hm : s.misaligned la k = true) (hf : s.pageFaults .write las = []) :
    s.accessExn las la k = some .ac := by
  rw [State.accessExn, hm, lowestFault_none.2 hf]

theorem accessExn_page (hm : s.misaligned la k = false) (hf : lowestFault (s.pageFaults .write las) = some f) :
    s.accessExn las la k = some (.pf f.2 f.1) := by
  rw [State.accessExn, hm, hf]

/-- With both conditions the free value of assumption log 8 chooses between the two (60_exceptions.md R310). -/
theorem accessExn_both (hm : s.misaligned la k = true) (hf : lowestFault (s.pageFaults .write las) = some f) :
    s.accessExn las la k = some .ac ∨ s.accessExn las la k = some (.pf f.2 f.1) := by
  rw [State.accessExn, hm, hf]
  exact ite_eq_or_eq _ _ _

end

/-! ### Instruction fetch (20_memory.md R74, R76) -/

/-- The segment-level check of instruction byte `j`: the CS limit, or canonical form in 64-bit mode. -/
def State.mayFetch (s : State) (j : Nat) : Bool :=
  if s.mode = .long64 then canonical s.vaBits (s.linear .cs s.ip j) else s.cs.inLimit .a32 (s.ip.toNat + j) 1

theorem fetchAddress_denied {s : State} {j : Nat} (h : s.mayFetch j = false) : s.fetchAddress j = .error .gp :=
  if_neg (by rw [← State.mayFetch, h]; decide)

theorem fetchAddress_pageFault {s : State} {j : Nat} {code : Word32} (h : s.mayFetch j = true)
    (ht : s.translate (s.linear .cs s.ip j) .execute = .pageFault code) :
    s.fetchAddress j = .error (.pf code (s.linear .cs s.ip j)) := by
  refine (if_pos h).trans ?_
  rw [ht]

/-- At the instruction pointer in 64-bit mode the linear address is RIP itself, CS having no base. -/
theorem linear_cs_long64 {s : State} (h : s.mode = .long64) : s.linear .cs s.ip 0 = s.rip := by
  rw [State.linear, narrow_long64 h, segBase_eq, if_pos ⟨h, by decide, by decide⟩, ip_long64 h]
  simp

theorem mayFetch_long64 {s : State} (h : s.mode = .long64) : s.mayFetch 0 = canonical s.vaBits s.rip := by
  rw [State.mayFetch, if_pos h, linear_cs_long64 h]

/-- Outside 64-bit mode the instruction pointer is below `2^32`, so only the limit decides. -/
theorem mayFetch_of_ne_long64 {s : State} (h : s.mode ≠ .long64) : s.mayFetch 0 = s.cs.covers s.ip.toNat := by
  have hip : s.ip.toNat + 1 ≤ 2 ^ AddrSize.a32.bits := narrow_lt h s.rip
  rw [State.mayFetch, if_neg h]
  simp [Seg.inLimit, hip]

theorem fetchFrom_ok {s : State} {j : Nat} {pa : Word64} (n : Nat) (h : s.fetchAddress j = .ok pa) :
    (s.fetchFrom j (n + 1)).1 = Memory.read s.mem pa :: (s.fetchFrom (j + 1) n).1 := by
  rw [State.fetchFrom, h]

/-- A byte that can be fetched, after others that can, stands in its place in what is fetched. -/
theorem fetchFrom_getElem {s : State} {n i j : Nat} {pa : Word64} (hi : i < n)
    (hbefore : ∀ k < i, ∃ pb, s.fetchAddress (j + k) = .ok pb) (hpa : s.fetchAddress (j + i) = .ok pa) :
    (s.fetchFrom j n).1[i]? = some (Memory.read s.mem pa) := by
  induction n generalizing i j with
  | zero => cases hi
  | succ n ih =>
    cases i with
    | zero => rw [fetchFrom_ok n (j := j) hpa, List.getElem?_cons_zero]
    | succ i =>
      obtain ⟨pb, hpb⟩ := hbefore 0 (Nat.succ_pos i)
      rw [fetchFrom_ok n (j := j) hpb, List.getElem?_cons_succ]
      refine ih (Nat.lt_of_succ_lt_succ hi) (fun k hk => ?_) (by rwa [Nat.add_right_comm])
      rw [Nat.add_right_comm]
      exact hbefore (k + 1) (Nat.succ_lt_succ hk)

/-- A first byte that cannot be fetched leaves nothing to decode: the step takes its exception. -/
theorem step_fetch_error {s : State} {e : Exn} (htf : s.flags.tf = false) (h : s.fetchAddress 0 = .error e) :
    step s = raise e s := by
  have hw : s.fetchWindow = ([], some e) := by
    rw [State.fetchWindow, maxLength, State.fetchFrom, h]
  rw [step, hw, htf]
  rfl

/-! ### The checks of an instruction's memory operand (20_memory.md R62 to R70)

Named for an instruction, so that the statements below are about the checks and not about their operands. -/

/-- The segment-level exception of an instruction's memory operand (20_memory.md R64 to R66). -/
def operandSegmentExn (i : Instr) (s : State) : Option Exn :=
  s.segmentExn (operandSegment i s) (s.addressSize (view i)) (operandAddress i s) (view i).row.size.bytes

/-- The linear addresses of the bytes of an instruction's memory operand, lowest offset first (R63). -/
def operandLinears (i : Instr) (s : State) : List Word64 :=
  s.linears (operandSegment i s) (operandAddress i s) (view i).row.size.bytes

/-- The alignment or page exception of an instruction's memory operand (20_memory.md R67, R68). -/
def operandAccessExn (i : Instr) (s : State) : Option Exn :=
  s.accessExn (operandLinears i s) (operandLinear i s 0) (view i).row.size.bytes

section
variable {i : Instr} {s : State} {e : Exn}

/-- A memory form without LOCK whose operand fails a check takes that exception. -/
theorem exec_operand_error (hm : isMemory i) (hl : Legacy.lock ∉ (view i).pre)
    (h : memoryOperand (view i) s = .error e) : exec i s = raise e s := by
  rw [exec_eq]
  refine rotate_error hl ?_
  rw [destination_mem hm, h]

theorem exec_segmentExn (hm : isMemory i) (hl : Legacy.lock ∉ (view i).pre)
    (h : operandSegmentExn i s = some e) : exec i s = raise e s :=
  exec_operand_error hm hl (operandBytes_of_segmentExn h)

theorem exec_accessExn (hm : isMemory i) (hl : Legacy.lock ∉ (view i).pre) (hs : operandSegmentExn i s = none)
    (h : operandAccessExn i s = some e) : exec i s = raise e s :=
  exec_operand_error hm hl (operandBytes_of_accessExn hs h)

/-! #### The segment level, mode by mode -/

/-- 20_memory.md R65: in real and virtual-8086 mode the limit alone. -/
theorem operandSegmentExn_real (h : s.mode = .real ∨ s.mode = .v86) :
    operandSegmentExn i s = if operandInLimit i s = true then none else some (limitExn (operandSegment i s)) := by
  unfold operandSegmentExn State.segmentExn
  rcases h with h | h <;> rw [h] <;> rfl

/-- 20_memory.md R64: in protected and compatibility mode the null selector, then writability, then the
limit. -/
theorem operandSegmentExn_protected (h : s.mode = .prot ∨ s.mode = .compat) :
    operandSegmentExn i s =
      if isDataSegment (operandSegment i s) && (s.seg (operandSegment i s)).null then some .gp
      else if !s.segWritable (operandSegment i s) then some .gp
      else if operandInLimit i s = true then none
      else some (limitExn (operandSegment i s)) := by
  unfold operandSegmentExn State.segmentExn
  rcases h with h | h <;> rw [h] <;> rfl

theorem all_canonical_iff : (operandLinears i s).all (canonical s.vaBits) = true ↔ operandCanonical i s := by
  simp only [List.all_eq_true, operandLinears, mem_linears, operandCanonical, operandLinear, forall_exists_index,
    and_imp]
  exact ⟨fun h j hj => h _ j hj rfl, fun h la j hj hla => hla ▸ h j hj⟩

/-- 20_memory.md R66: in 64-bit mode canonical form first. -/
theorem operandSegmentExn_of_not_canonical (h : s.mode = .long64) (hc : ¬operandCanonical i s) :
    operandSegmentExn i s = some (limitExn (operandSegment i s)) := by
  unfold operandSegmentExn State.segmentExn
  rw [h]
  exact if_neg (mt all_canonical_iff.1 hc)

/-- 20_memory.md R66: in 64-bit mode a canonical operand needs a writable segment. -/
theorem operandSegmentExn_of_canonical (h : s.mode = .long64) (hc : operandCanonical i s) :
    operandSegmentExn i s = if s.segWritable (operandSegment i s) = true then none else some .gp := by
  unfold operandSegmentExn State.segmentExn
  rw [h]
  exact if_pos (all_canonical_iff.2 hc)

theorem operandSegmentExn_real_of_limit (h : s.mode = .real ∨ s.mode = .v86) (hlim : operandInLimit i s = false) :
    operandSegmentExn i s = some (limitExn (operandSegment i s)) := by
  rw [operandSegmentExn_real h, hlim]
  rfl

theorem operandSegmentExn_of_null (h : s.mode = .prot ∨ s.mode = .compat)
    (hd : isDataSegment (operandSegment i s) = true) (hn : (s.seg (operandSegment i s)).null = true) :
    operandSegmentExn i s = some .gp := by
  rw [operandSegmentExn_protected h, hd, hn]
  rfl

/-- A segment that is not writable is `#GP` whether or not its selector is null. -/
theorem operandSegmentExn_of_not_writable (h : s.mode = .prot ∨ s.mode = .compat)
    (hw : s.segWritable (operandSegment i s) = false) : operandSegmentExn i s = some .gp := by
  rw [operandSegmentExn_protected h, hw]
  exact ite_self _

/-- Outside SS every check that fails is `#GP`, so the limit alone decides that there is one. -/
theorem operandSegmentExn_of_limit (h : s.mode = .prot ∨ s.mode = .compat) (hr : operandSegment i s ≠ .ss)
    (hlim : operandInLimit i s = false) : operandSegmentExn i s = some .gp := by
  rw [operandSegmentExn_protected h, hlim, limitExn_eq, if_neg hr, if_neg Bool.false_ne_true, ite_self, ite_self]

/-- SS has no null condition: writable, only its limit is left (20_memory.md R64). -/
theorem operandSegmentExn_of_limit_ss (h : s.mode = .prot ∨ s.mode = .compat) (hr : operandSegment i s = .ss)
    (hw : s.ss.writable = true) (hlim : operandInLimit i s = false) : operandSegmentExn i s = some .ss := by
  rw [operandSegmentExn_protected h, hlim, hr, segWritable_protected h, show (s.seg .ss).writable = true from hw]
  rfl

theorem operandSegmentExn_protected_eq_none (h : s.mode = .prot ∨ s.mode = .compat) :
    operandSegmentExn i s = none ↔ segmentPasses.protectedPasses i s := by
  rw [operandSegmentExn_protected h, segmentPasses.protectedPasses]
  split_ifs <;> simp_all

/-- The segment-level checks raise no exception exactly when they pass. -/
theorem operandSegmentExn_eq_none : operandSegmentExn i s = none ↔ segmentPasses i s := by
  unfold segmentPasses
  split
  · next h => rw [operandSegmentExn_real (.inl h)]; simp
  · next h => rw [operandSegmentExn_real (.inr h)]; simp
  · next h => exact operandSegmentExn_protected_eq_none (.inl h)
  · next h => exact operandSegmentExn_protected_eq_none (.inr h)
  · next h =>
    by_cases hc : operandCanonical i s
    · rw [operandSegmentExn_of_canonical h hc]
      simp [hc]
    · rw [operandSegmentExn_of_not_canonical h hc]
      simp [hc]

/-! #### Alignment and paging -/

/-- 20_memory.md R68. -/
theorem misaligned_iff :
    s.misaligned (operandLinear i s 0) (view i).row.size.bytes = true ↔ operandMisaligned i s := by
  simp [State.misaligned, State.alignmentOn, operandMisaligned, and_assoc]

theorem misaligned_eq_false (h : ¬operandMisaligned i s) :
    s.misaligned (operandLinear i s 0) (view i).row.size.bytes = false :=
  Bool.eq_false_iff.2 (mt misaligned_iff.1 h)

theorem operandLinears_getElem {j : Nat} (h : j < (operandLinears i s).length) :
    (operandLinears i s)[j] = operandLinear i s j := by
  simp only [operandLinears, State.linears, List.getElem_map, List.getElem_range, operandLinear]

theorem mem_operandLinears {la : Word64} :
    la ∈ operandLinears i s ↔ ∃ j < (view i).row.size.bytes, operandLinear i s j = la :=
  mem_linears ..

/-- An operand of which every byte translates has no page fault. -/
theorem pageFaults_of_mapped (h : operandMapped i s) : s.pageFaults .write (operandLinears i s) = [] := by
  refine pageFaults_eq_nil fun la hla => ?_
  obtain ⟨j, hj, rfl⟩ := mem_operandLinears.1 hla
  exact h j hj

end

/-! ### The exceptions as outcomes (60_exceptions.md R302, R303, R313) -/

theorem errorCode_of_ne_real {s : State} (h : s.mode ≠ .real) : s.errorCode = some 0 := if_neg h

theorem errorCode_real {s : State} (h : s.mode = .real) : s.errorCode = none := if_pos h

section
variable {i : Instr} {s : State} {code : Option Word32}

theorem exec_gp_of_segmentExn (hm : isMemory i) (hl : Legacy.lock ∉ (view i).pre) (hcode : s.errorCode = code)
    (h : operandSegmentExn i s = some .gp) : exec i s = .fault (.gp code s.ip) :=
  hcode ▸ exec_segmentExn hm hl h

theorem exec_ss_of_segmentExn (hm : isMemory i) (hl : Legacy.lock ∉ (view i).pre) (hcode : s.errorCode = code)
    (h : operandSegmentExn i s = some .ss) : exec i s = .fault (.ss code s.ip) :=
  hcode ▸ exec_segmentExn hm hl h

end

/-! ## The obligations about memory -/

/-- Settles O46: the segment level passes, so `accessExn` answers: the operand's alignment and the lowest of
its page faults. -/
theorem alignmentAndPageFaults : Obligations.AlignmentAndPageFaults := by
  intro i s hm hl hp
  have hs := operandSegmentExn_eq_none.2 hp
  refine ⟨fun hmis hmap => exec_accessExn hm hl hs
    (accessExn_alignment (misaligned_iff.2 hmis) (pageFaults_of_mapped hmap)), fun j code hj ht hlow => ?_⟩
  have hf : lowestFault (s.pageFaults .write (operandLinears i s)) = some (operandLinear i s j, code) := by
    refine lowestFault_pageFaults (mem_operandLinears.2 ⟨j, hj, rfl⟩) ht fun la hla hlt => ?_
    obtain ⟨k, hk, rfl⟩ := mem_operandLinears.1 hla
    exact hlow k hk hlt
  exact ⟨fun hmis => exec_accessExn hm hl hs (accessExn_page (misaligned_eq_false hmis) hf),
    fun hmis => (accessExn_both (misaligned_iff.2 hmis) hf).imp (exec_accessExn hm hl hs)
      (exec_accessExn hm hl hs)⟩

/-- Settles O27: no check has an exception, and without a page fault every byte is where it translates to. -/
theorem operandAccessible : Obligations.OperandAccessible := by
  intro i s _ hp hmis hmap
  have hf := pageFaults_of_mapped hmap
  have hlen : (s.physicals .write (operandLinears i s)).length = (view i).row.size.bytes := by
    rw [physicals_length hf, operandLinears, linears_length]
  refine ⟨_, operandBytes_of_passes (operandSegmentExn_eq_none.2 hp)
    (accessExn_passes (misaligned_eq_false hmis) hf), hlen, fun j h => ?_⟩
  have hj : j < (operandLinears i s).length := by rwa [operandLinears, linears_length, ← hlen]
  rw [← operandLinears_getElem hj]
  exact translate_physicals hf j hj h

/-- Settles O43: each clause is what the protected-mode checks answer; CS is one of the segments that are not
writable. -/
theorem protectedSegmentFaults : Obligations.ProtectedSegmentFaults := by
  rintro i s r hm hl hmode rfl
  have hcode : s.errorCode = some 0 := errorCode_of_ne_real (by rcases hmode with h | h <;> rw [h] <;> decide)
  have hwritable := segWritable_protected hmode (operandSegment i s)
  refine ⟨fun hd hn => exec_gp_of_segmentExn hm hl hcode (operandSegmentExn_of_null hmode hd hn), fun hr => ?_,
    fun _ hw => ?_, fun hr hlim => exec_gp_of_segmentExn hm hl hcode (operandSegmentExn_of_limit hmode hr hlim),
    fun hr hw _ => ?_,
    fun hr hw hlim => exec_ss_of_segmentExn hm hl hcode (operandSegmentExn_of_limit_ss hmode hr hw hlim)⟩
  all_goals refine exec_gp_of_segmentExn hm hl hcode (operandSegmentExn_of_not_writable hmode (hwritable.trans ?_))
  · simp [hr]
  · simp [hw]
  · simp [hr, State.seg, hw]

/-- Settles O44: the limit's exception is `#SS` for SS and `#GP` elsewhere, with the mode's error code. -/
theorem realSegmentFaults : Obligations.RealSegmentFaults := by
  intro i s hm hl hlim
  have hexn (h : s.mode = .real ∨ s.mode = .v86) := limitExn_eq _ ▸ operandSegmentExn_real_of_limit h hlim
  have hv86 (h : s.mode = .v86) : s.errorCode = some 0 := errorCode_of_ne_real (by rw [h]; decide)
  exact ⟨fun h hr => exec_gp_of_segmentExn hm hl (errorCode_real h) ((hexn (.inl h)).trans (by rw [if_neg hr])),
    fun h hr => exec_ss_of_segmentExn hm hl (errorCode_real h) ((hexn (.inl h)).trans (by rw [if_pos hr])),
    fun h hr => exec_gp_of_segmentExn hm hl (hv86 h) ((hexn (.inr h)).trans (by rw [if_neg hr])),
    fun h hr => exec_ss_of_segmentExn hm hl (hv86 h) ((hexn (.inr h)).trans (by rw [if_pos hr]))⟩

/-- Settles O45: canonical form decides first, then the segment's own record; RIP is the visible pointer. -/
theorem long64SegmentFaults : Obligations.Long64SegmentFaults := by
  intro i s hm hl hmode
  have hcode : s.errorCode = some 0 := errorCode_of_ne_real (by rw [hmode]; decide)
  rw [← ip_long64 hmode]
  refine ⟨fun hr hc => exec_ss_of_segmentExn hm hl hcode ?_, fun hr hc => exec_gp_of_segmentExn hm hl hcode ?_,
    fun hc hw => exec_gp_of_segmentExn hm hl hcode ?_⟩
  · rw [operandSegmentExn_of_not_canonical hmode hc, limitExn_eq, if_pos hr]
  · rw [operandSegmentExn_of_not_canonical hmode hc, limitExn_eq, if_neg hr]
  · rw [operandSegmentExn_of_canonical hmode hc, segWritable_long64 hmode, hw]
    rfl

/-- Settles O54: the sum of `toNat_linear_long64` or `toNat_linear` with the mode's base. -/
theorem linearAddress : Obligations.LinearAddress := by
  rintro i s _ j rfl
  refine ⟨fun hm hr => ?_, fun hm hr => ?_, fun hm hr => ?_, fun hm => toNat_linear hm _ _ _⟩
  all_goals rw [operandLinear, toNat_linear_long64 hm, segBase_eq]
  · rw [if_pos ⟨hm, by rcases hr with h | h | h | h <;> rw [h] <;> decide⟩, show (0 : Word64).toNat = 0 from rfl,
      Nat.zero_add]
  · rw [if_neg (by simp [hr]), hr]
    rfl
  · rw [if_neg (by simp [hr]), hr]
    rfl

/-- Settles O9: the window is the bytes fetched from byte 0 on. -/
theorem fetchSeesMemory : Obligations.FetchSeesMemory := by
  intro s j pa hj hpa hbefore
  refine fetchFrom_getElem hj (fun k hk => ?_) (by rwa [Nat.zero_add])
  rw [Nat.zero_add]
  exact hbefore k hk

/-- Settles O10: the first byte's fetch answers the fault, which the step then takes. -/
theorem fetchFaults : Obligations.FetchFaults := by
  intro s htf
  refine ⟨fun hm hc => ?_, fun hm hc => ?_, fun hm hc code ht => ?_, fun hm hc code ht => ?_⟩
  · exact step_fetch_error htf (fetchAddress_denied (by rw [mayFetch_of_ne_long64 hm, hc]))
  · rw [step_fetch_error htf (fetchAddress_denied (by rw [mayFetch_long64 hm, hc])), ← ip_long64 hm,
      ← errorCode_of_ne_real (by rw [hm]; decide)]
    rfl
  · rw [← linear_cs_long64 hm] at ht
    rw [step_fetch_error htf (fetchAddress_pageFault (by rw [mayFetch_long64 hm, hc]) ht), linear_cs_long64 hm,
      raise, ip_long64 hm]
  · exact step_fetch_error htf (fetchAddress_pageFault (by rw [mayFetch_of_ne_long64 hm, hc]) ht)

/-- Settles O32: what is read back is `bytesOf`, whose little-endian value is the value. -/
theorem littleEndianBytes : Obligations.LittleEndian := by
  intro n v m as hd hl
  have hread : Memory.readAll (Memory.writeAll m as (bytesOf n v)) as = bytesOf n v :=
    readAll_writeAll m hd (by rw [bytesOf_length, hl])
  refine ⟨by rw [hread, littleEndian_bytesOf, BitVec.ofNat_toNat, BitVec.setWidth_eq], fun j hj => ?_⟩
  have hj' : j < (bytesOf n v).length := by rwa [bytesOf_length, ← hl]
  rw [← bytesOf_getElem n v j hj', ← getElem_readAll _ _ _ hj]
  exact List.getElem_of_eq hread _

/-- Settles O36, by the bits of a sign extension. -/
theorem canonicalForm : Obligations.CanonicalForm := canonical_iff

/-- Settles O37: neither way is paging on. -/
theorem pagingOff : Obligations.PagingOff := by
  intro s la acc h
  refine translate_off ?_ la acc
  rcases h with h | h
  · rw [State.paging, h]
    rfl
  · rw [State.paging, h, Bool.and_false]

end Sys2Proof.Machine

/-! ## Proofs about the encoding (spec/30_encoding.md): the facts they share

For each reader of the decoder there are two facts: it reads back the bytes of a part, and what it has read is
the bytes of a part that the encoding has. Put together, `decode` accepts exactly the bytes `encode` writes of
a well-formed instruction (`decode_eq_ok_iff`). -/

namespace Sys2Proof

/-! ### Sequencing of readers -/

/-- A sequence of readers answers when each does. -/
theorem bind_eq_ok {α β : Type} {x : Except Stop α} {f : α → Except Stop β} {b : β} :
    (x >>= f) = .ok b ↔ ∃ a, x = .ok a ∧ f a = .ok b := by
  cases x with
  | error e => exact ⟨nofun, fun ⟨_, h, _⟩ => nomatch h⟩
  | ok a => exact ⟨fun h => ⟨a, rfl, h⟩, fun ⟨_, h, hf⟩ => by cases h; exact hf⟩

/-- Reading one part and building a term from it. -/
theorem read_eq_ok {α β : Type} {x : Except Stop (α × List Byte)} {f : α → β} {b : β} {rest : List Byte} :
    (x >>= fun p => .ok (f p.1, p.2)) = .ok (b, rest) ↔ ∃ a, x = .ok (a, rest) ∧ f a = b := by
  simp [bind_eq_ok]

/-! ### Bytes and displacements (30_encoding.md R113) -/

theorem takeByte_eq_ok {bs rest : List Byte} {b : Byte} : takeByte bs = .ok (b, rest) ↔ bs = b :: rest := by
  cases bs <;> simp [takeByte]

theorem take16_eq_ok {bs rest : List Byte} {d : BitVec 16} :
    take16 bs = .ok (d, rest) ↔ bs = bytes16 d ++ rest :=
  ⟨bytes16_of_take16, fun h => h ▸ take16_bytes16 d rest⟩

theorem take32_eq_ok {bs rest : List Byte} {d : Word32} :
    take32 bs = .ok (d, rest) ↔ bs = bytes32 d ++ rest :=
  ⟨bytes32_of_take32, fun h => h ▸ take32_bytes32 d rest⟩

/-- The `mod` values of an address. -/
theorem mod_cases {mod : BitVec 2} (h : mod ≠ 3#2) : mod = 0#2 ∨ mod = 1#2 ∨ mod = 2#2 := by
  revert mod; decide

theorem decodeDisp16_eq_ok {mod : BitVec 2} {bs rest : List Byte} {d : Disp16} (hmod : mod ≠ 3#2) :
    decodeDisp16 mod bs = .ok (d, rest) ↔ mod = d.mod ∧ bs = d.encode ++ rest := by
  rcases mod_cases hmod with rfl | rfl | rfl <;> cases d <;>
    simp [decodeDisp16, bind_eq_ok, takeByte_eq_ok, take16_eq_ok, Disp16.mod, Disp16.encode]

theorem decodeDisp32_eq_ok {mod : BitVec 2} {bs rest : List Byte} {d : Disp32} (hmod : mod ≠ 3#2) :
    decodeDisp32 mod bs = .ok (d, rest) ↔ mod = d.mod ∧ bs = d.encode ++ rest := by
  rcases mod_cases hmod with rfl | rfl | rfl <;> cases d <;>
    simp [decodeDisp32, bind_eq_ok, takeByte_eq_ok, take32_eq_ok, Disp32.mod, Disp32.encode]

/-! ### ModRM and SIB (30_encoding.md R105, R109 to R112) -/

theorem modrmByte_inj {mod mod' : BitVec 2} {g g' rm rm' : BitVec 3} :
    modrmByte mod g rm = modrmByte mod' g' rm' ↔ mod = mod' ∧ g = g' ∧ rm = rm' := by
  refine ⟨fun h => ?_, fun ⟨h, h', h''⟩ => by rw [h, h', h'']⟩
  obtain ⟨hmod, hg, hrm⟩ := modrmByte_fields mod g rm
  obtain ⟨hmod', hg', hrm'⟩ := modrmByte_fields mod' g' rm'
  rw [h] at hmod hg hrm
  exact ⟨hmod.symm.trans hmod', hg.symm.trans hg', hrm.symm.trans hrm'⟩

theorem disp16_mod_ne (d : Disp16) : d.mod ≠ 3#2 := by
  cases d <;> simp [Disp16.mod]

theorem disp32_mod_ne (d : Disp32) : d.mod ≠ 3#2 := by
  cases d <;> simp [Disp32.mod]

/-- Every byte is a SIB byte. -/
theorem exists_sibByte (b : Byte) : ∃ sc ix base, b = sibByte sc ix base :=
  ⟨_, _, _, (modrmByte_of_fields b).symm⟩

theorem sibByte_fields (sc : BitVec 2) (ix base : BitVec 3) :
    (sibByte sc ix base).extractLsb' 6 2 = sc ∧ (sibByte sc ix base).extractLsb' 3 3 = ix
      ∧ (sibByte sc ix base).extractLsb' 0 3 = base :=
  modrmByte_fields sc ix base

/-! ### Operands (30_encoding.md R109 to R112)

A shape is allowed when the decoder does not read its `mod` and `rm`, or its `mod` and SIB base, as another. -/

theorem shapeAllowed_mem16 {b : Base16} {d : Disp16} :
    shapeAllowed (.mem16 b d) = true ↔ ¬(d.mod = 0#2 ∧ b.bits = 6#3) := by
  have hb : b = .bp ↔ b.bits = 6#3 := by cases b <;> decide
  cases d <;> simp [shapeAllowed, Disp16.mod, hb]

theorem shapeAllowed_mem {b : BitVec 3} {d : Disp32} :
    shapeAllowed (.mem b d) = true ↔ b ≠ 4#3 ∧ ¬(d.mod = 0#2 ∧ b = 5#3) := by
  cases d <;> simp [shapeAllowed, Disp32.mod]

theorem shapeAllowed_sib {sc : BitVec 2} {ix b : BitVec 3} {d : Disp32} :
    shapeAllowed (.sib sc ix b d) = true ↔ ¬(d.mod = 0#2 ∧ b = 5#3) := by
  cases d <;> simp [shapeAllowed, Disp32.mod]

/-- What follows a SIB byte (30_encoding.md R111). -/
theorem decodeMem32_sibByte (mod sc : BitVec 2) (ix b : BitVec 3) (bs : List Byte) :
    decodeMem32 mod 4 (sibByte sc ix b :: bs) =
      if mod = 0#2 ∧ b = 5#3 then take32 bs >>= fun p => .ok (.sibAbs sc ix p.1, p.2)
      else decodeDisp32 mod bs >>= fun p => .ok (.sib sc ix b p.1, p.2) := by
  obtain ⟨hsc, hix, hb⟩ := sibByte_fields sc ix b
  simp only [decodeMem32, BitVec.ofNat_eq_ofNat, if_true, takeByte, bind, Except.bind, hsc, hix, hb]

section
variable {a : AddrSize} {mod : BitVec 2} {g rm : BitVec 3} {bs rest : List Byte} {dst : Rm}

/-- The operand of an encoding is read back, form by form. -/
theorem decodeRm_of_encodeRm (h : modrmByte mod g rm :: bs = encodeRm g dst ++ rest)
    (ha : addressAgrees a dst = true) (hs : shapeAllowed dst = true) :
    decodeRm a mod rm bs = .ok (dst, rest) := by
  cases dst
  all_goals
    simp only [encodeRm, List.cons_append, List.cons.injEq, modrmByte_inj] at h
    obtain ⟨⟨rfl, -, rfl⟩, rfl⟩ := h
    rw [decodeRm]
  case reg => rfl
  case mem16 b d =>
    rw [if_neg (disp16_mod_ne d), if_pos (of_decide_eq_true ha), decodeMem16, if_neg (shapeAllowed_mem16.1 hs),
      (decodeDisp16_eq_ok (disp16_mod_ne d)).2 ⟨rfl, rfl⟩, base16Of_bits]
    rfl
  case abs16 d =>
    rw [if_neg (by decide), if_pos (of_decide_eq_true ha), decodeMem16, if_pos ⟨rfl, rfl⟩, take16_bytes16]
    rfl
  case mem d =>
    obtain ⟨hsib, habs⟩ := shapeAllowed_mem.1 hs
    rw [if_neg (disp32_mod_ne d), if_neg (of_decide_eq_true ha), decodeMem32, if_neg hsib, if_neg habs,
      (decodeDisp32_eq_ok (disp32_mod_ne d)).2 ⟨rfl, rfl⟩]
    rfl
  case abs32 d =>
    rw [if_neg (by decide), if_neg (of_decide_eq_true ha), decodeMem32, if_neg (by decide), if_pos ⟨rfl, rfl⟩,
      take32_bytes32]
    rfl
  case sib sc ix b d =>
    rw [if_neg (disp32_mod_ne d), if_neg (of_decide_eq_true ha), decodeMem32_sibByte,
      if_neg (shapeAllowed_sib.1 hs), (decodeDisp32_eq_ok (disp32_mod_ne d)).2 ⟨rfl, rfl⟩]
    rfl
  case sibAbs sc ix d =>
    rw [if_neg (by decide), if_neg (of_decide_eq_true ha), decodeMem32_sibByte,
      if_pos ⟨rfl, rfl⟩, take32_bytes32]
    rfl

/-- What is read with 16-bit addressing is the encoding of an operand of that addressing. -/
theorem encodeRm_of_decodeMem16 (hmod : mod ≠ 3#2) (h : decodeMem16 mod rm bs = .ok (dst, rest)) :
    modrmByte mod g rm :: bs = encodeRm g dst ++ rest ∧ addressAgrees .a16 dst = true
      ∧ shapeAllowed dst = true := by
  unfold decodeMem16 at h
  split at h
  · next hc =>
    obtain ⟨rfl, rfl⟩ := hc
    obtain ⟨d, hd, rfl⟩ := (read_eq_ok (f := Rm.abs16)).1 h
    obtain rfl := take16_eq_ok.1 hd
    exact ⟨rfl, rfl, rfl⟩
  · next hc =>
    obtain ⟨d, hd, rfl⟩ := (read_eq_ok (f := Rm.mem16 (base16Of rm))).1 h
    obtain ⟨rfl, rfl⟩ := (decodeDisp16_eq_ok hmod).1 hd
    rw [shapeAllowed_mem16, encodeRm, bits_base16Of]
    exact ⟨rfl, rfl, hc⟩

/-- What is read after `rm` 4 is the encoding of an operand with a SIB byte. -/
theorem encodeRm_of_decodeSib (ha : a ≠ .a16) (hmod : mod ≠ 3#2) (h : decodeMem32 mod 4 bs = .ok (dst, rest)) :
    modrmByte mod g 4 :: bs = encodeRm g dst ++ rest ∧ addressAgrees a dst = true
      ∧ shapeAllowed dst = true := by
  cases bs with
  | nil => cases h
  | cons b bs =>
    obtain ⟨sc, ix, base, rfl⟩ := exists_sibByte b
    rw [decodeMem32_sibByte] at h
    split at h
    · next hc =>
      obtain ⟨rfl, rfl⟩ := hc
      obtain ⟨d, hd, rfl⟩ := read_eq_ok.1 h
      obtain rfl := take32_eq_ok.1 hd
      exact ⟨rfl, decide_eq_true ha, rfl⟩
    · next hc =>
      obtain ⟨d, hd, rfl⟩ := read_eq_ok.1 h
      obtain ⟨rfl, rfl⟩ := (decodeDisp32_eq_ok hmod).1 hd
      exact ⟨rfl, decide_eq_true ha, shapeAllowed_sib.2 hc⟩

/-- What is read with 32- or 64-bit addressing is the encoding of an operand of that addressing. -/
theorem encodeRm_of_decodeMem32 (ha : a ≠ .a16) (hmod : mod ≠ 3#2)
    (h : decodeMem32 mod rm bs = .ok (dst, rest)) :
    modrmByte mod g rm :: bs = encodeRm g dst ++ rest ∧ addressAgrees a dst = true
      ∧ shapeAllowed dst = true := by
  by_cases hsib : rm = 4#3
  · subst hsib
    exact encodeRm_of_decodeSib ha hmod h
  · rw [decodeMem32, if_neg hsib] at h
    split at h
    · next hc =>
      obtain ⟨rfl, rfl⟩ := hc
      obtain ⟨d, hd, rfl⟩ := (read_eq_ok (f := Rm.abs32)).1 h
      obtain rfl := take32_eq_ok.1 hd
      exact ⟨rfl, decide_eq_true ha, rfl⟩
    · next hc =>
      obtain ⟨d, hd, rfl⟩ := (read_eq_ok (f := Rm.mem rm)).1 h
      obtain ⟨rfl, rfl⟩ := (decodeDisp32_eq_ok hmod).1 hd
      exact ⟨rfl, decide_eq_true ha, shapeAllowed_mem.2 ⟨hsib, hc⟩⟩

/-- What is read as the operand is the encoding of an operand of the address size in force. -/
theorem encodeRm_of_decodeRm (h : decodeRm a mod rm bs = .ok (dst, rest)) :
    modrmByte mod g rm :: bs = encodeRm g dst ++ rest ∧ addressAgrees a dst = true
      ∧ shapeAllowed dst = true := by
  unfold decodeRm at h
  split at h
  · next hmod =>
    subst hmod
    cases h
    exact ⟨rfl, rfl, rfl⟩
  · next hmod =>
    split at h
    · next ha => exact ha ▸ encodeRm_of_decodeMem16 hmod h
    · next ha => exact encodeRm_of_decodeMem32 ha hmod h

end

/-! ### Prefixes and REX (30_encoding.md R101, R103) -/

/-- An opcode byte ends the prefixes, and is no REX byte. -/
theorem opcode_ends_prefixes {b : Byte} (h : opcodeOf b ≠ none) :
    legacyOf b = none ∧ isRepeat b = false ∧ isRexByte b = false := by
  revert b; decide

theorem rexByte_ends_prefixes {b : Byte} (h : isRexByte b = true) : legacyOf b = none ∧ isRepeat b = false := by
  revert b; decide

theorem groupsDistinct_iff (pre : List Legacy) :
    groupsDistinct pre = true ↔ pre.Pairwise fun p q => q.group ≠ p.group := by
  induction pre with
  | nil => simp [groupsDistinct]
  | cons p ps ih => simp [groupsDistinct, ih]

/-- The prefixes end at the first byte of none of the groups that is not `F2` or `F3`. -/
theorem decodeLegacy_end {seen : List Legacy} {b : Byte} {bs : List Byte} (hb : legacyOf b = none)
    (hr : isRepeat b = false) : decodeLegacy seen (b :: bs) = .ok (seen, b :: bs) := by
  simp [decodeLegacy, hb, hr]

/-- Prefixes of different groups are read back, up to the first byte that is none. -/
theorem decodeLegacy_append {seen pre : List Legacy} {b : Byte} {bs : List Byte}
    (hd : groupsDistinct (seen ++ pre) = true) (hb : legacyOf b = none) (hr : isRepeat b = false) :
    decodeLegacy seen (pre.map legacyByte ++ b :: bs) = .ok (seen ++ pre, b :: bs) := by
  induction pre generalizing seen with
  | nil => rw [List.map_nil, List.nil_append, List.append_nil, decodeLegacy_end hb hr]
  | cons p ps ih =>
    have hnew : seen.any (fun q => q.group = p.group) = false := by
      obtain ⟨-, -, hcross⟩ := List.pairwise_append.1 ((groupsDistinct_iff _).1 hd)
      simpa using fun q hq => (hcross q hq p List.mem_cons_self).symm
    rw [List.map_cons, List.cons_append, decodeLegacy, legacyOf_legacyByte]
    simp only [hnew, Bool.false_eq_true, if_false]
    rw [ih (by rwa [List.append_assoc]), List.append_assoc]
    rfl

/-- What is read as prefixes is their bytes, and no two are of one group. -/
theorem append_of_decodeLegacy {seen pre : List Legacy} {bs rest : List Byte}
    (h : decodeLegacy seen bs = .ok (pre, rest)) (hs : groupsDistinct seen = true) :
    groupsDistinct pre = true ∧ ∃ ps, pre = seen ++ ps ∧ bs = ps.map legacyByte ++ rest := by
  induction bs generalizing seen with
  | nil => cases h
  | cons b bs ih =>
    unfold decodeLegacy at h
    split at h
    · next p hp =>
      split at h
      · cases h
      · next hnew =>
        have hs' : groupsDistinct (seen ++ [p]) = true := by
          rw [groupsDistinct_iff, List.pairwise_append]
          simp only [List.any_eq_true, decide_eq_true_eq, not_exists, not_and] at hnew
          refine ⟨(groupsDistinct_iff seen).1 hs, List.pairwise_singleton _ _, fun q hq r hr => ?_⟩
          rw [List.mem_singleton.1 hr]
          exact Ne.symm (hnew q hq)
        obtain ⟨hd, ps, rfl, rfl⟩ := ih h hs'
        exact ⟨hd, p :: ps, List.append_assoc _ _ _, by rw [← legacyByte_legacyOf hp]; rfl⟩
    · split at h
      · cases h
      · cases h
        exact ⟨hs, [], (List.append_nil _).symm, rfl⟩

/-- What is read as the prefixes of an instruction is their bytes, and no two are of one group. -/
theorem map_of_decodeLegacy {pre : List Legacy} {bs rest : List Byte} (h : decodeLegacy [] bs = .ok (pre, rest)) :
    groupsDistinct pre = true ∧ bs = pre.map legacyByte ++ rest := by
  obtain ⟨hd, _, rfl, rfl⟩ := append_of_decodeLegacy h rfl
  exact ⟨hd, rfl⟩

/-- A REX byte, where the mode has one, or none is read back before an opcode byte. -/
theorem decodeRex_append {m : Mode} {rex : Option Rex} {op : Byte} {bs : List Byte} (hop : opcodeOf op ≠ none)
    (hm : rex = none ∨ m = .long64) :
    decodeRex m ((rex.map rexByte).toList ++ op :: bs) = .ok (rex, op :: bs) := by
  obtain ⟨hl, hr, hx⟩ := opcode_ends_prefixes hop
  cases rex with
  | none => simp [decodeRex, hx]
  | some x => simp_all [decodeRex, isRexByte_rexByte, rexOf_rexByte]

/-- What is read as a REX byte, or none, is its bytes; only 64-bit mode has one. -/
theorem append_of_decodeRex {m : Mode} {rex : Option Rex} {bs rest : List Byte}
    (h : decodeRex m bs = .ok (rex, rest)) :
    bs = (rex.map rexByte).toList ++ rest ∧ (rex = none ∨ m = .long64) := by
  cases bs with
  | nil => cases h
  | cons b bs =>
    simp only [decodeRex] at h
    split at h
    · next hb =>
      split at h
      · next hm =>
        subst hm
        split at h
        · cases h
        · split at h
          · cases h
          · cases h
            exact ⟨by simp [rexByte_rexOf hb], .inr rfl⟩
      · cases h
    · cases h
      exact ⟨rfl, .inl rfl⟩

/-- Prefixes and REX are read back before an opcode byte. -/
theorem decodeLegacy_opcode {pre : List Legacy} {rex : Option Rex} {op : Byte} {bs : List Byte}
    (hd : groupsDistinct pre = true) (hop : opcodeOf op ≠ none) :
    decodeLegacy [] (pre.map legacyByte ++ ((rex.map rexByte).toList ++ op :: bs)) =
      .ok (pre, (rex.map rexByte).toList ++ op :: bs) := by
  obtain ⟨hl, hr, -⟩ := opcode_ends_prefixes hop
  cases rex with
  | none => exact decodeLegacy_append hd hl hr
  | some x =>
    obtain ⟨hl', hr'⟩ := rexByte_ends_prefixes (isRexByte_rexByte x)
    exact decodeLegacy_append hd hl' hr'

/-! ### Opcode, count and row (30_encoding.md R104, R107, R114) -/

/-- The opcode byte tells the width and how the count is read. -/
theorem exists_opcodeOf (c : Count) (w : Row) :
    ∃ k, opcodeOf (opcodeByte c w) = some (decide (w.size ≠ .b8), k)
      ∧ ∀ rest, decodeCount k (c.encode ++ rest) = .ok (c, rest) := by
  cases c <;> exact ⟨_, opcodeOf_opcodeByte _ w, fun _ => rfl⟩

/-- A byte that tells a row's width and a kind of count is the opcode byte of both. -/
theorem opcodeByte_of_opcodeOf {b : Byte} {w : Row} {c : Count}
    (h : opcodeOf b = some (decide (w.size ≠ .b8), c)) : opcodeByte c w = b := by
  unfold opcodeOf at h
  split_ifs at h
  all_goals
    subst b
    cases w <;> cases h <;> rfl

/-- What is read as the count is its bytes; reading an immediate does not change the opcode byte. -/
theorem append_of_decodeCount {k c : Count} {bs rest : List Byte} (h : decodeCount k bs = .ok (c, rest)) :
    bs = c.encode ++ rest ∧ ∀ w, opcodeByte c w = opcodeByte k w := by
  cases k with
  | imm ib =>
    simp only [decodeCount, bind_eq_ok, Prod.exists, takeByte_eq_ok] at h
    obtain ⟨b, r, rfl, h⟩ := h
    cases h
    exact ⟨rfl, fun w => by cases w <;> rfl⟩
  | one => cases h; exact ⟨rfl, fun _ => rfl⟩
  | cl => cases h; exact ⟨rfl, fun _ => rfl⟩

/-- Without REX.W a wide operand has 16 or 32 bits. -/
theorem wideSize_false_cases (m : Mode) (csD : Bool) (pre : List Legacy) :
    wideSize m csD pre false = .b16 ∨ wideSize m csD pre false = .b32 := by
  simp only [wideSize, Bool.false_eq_true, if_false]
  split <;> simp

/-- A row is the one its REX byte and its width select. -/
theorem rowOf_rex {m : Mode} {csD : Bool} {pre : List Legacy} {w : Row} (h : sizeAgrees m csD pre w = true) :
    rowOf m csD pre w.rex (decide (w.size ≠ .b8)) = w := by
  cases w with
  | rm8 => rfl
  | rm8x x => rfl
  | rm16 y => cases y <;> exact if_pos (of_decide_eq_true h)
  | rm32 y => cases y <;> exact if_neg (by rw [of_decide_eq_true h]; decide)
  | rm64 y => rfl

/-- The row selected has that REX byte and that width, and the size the prefixes and the mode select. -/
theorem rowOf_fits (m : Mode) (csD : Bool) (pre : List Legacy) (rex : Option Rex) (wide : Bool) :
    (rowOf m csD pre rex wide).rex = rex ∧ decide ((rowOf m csD pre rex wide).size ≠ .b8) = wide
      ∧ sizeAgrees m csD pre (rowOf m csD pre rex wide) = true := by
  unfold rowOf
  rcases wideSize_false_cases m csD pre with h | h
  · split <;> simp [h, Row.rex, Row.size, sizeAgrees]
  · split <;> simp [h, Row.rex, Row.size, sizeAgrees]

/-! ### A whole instruction (30_encoding.md R100) -/

/-- The checks of a well-formed instruction, one by one. -/
theorem rotateFits_iff {m : Mode} {csD : Bool} {v : Rotate} :
    rotateFits m csD v = true ↔ groupsDistinct v.pre = true ∧ (v.row.rex = none ∨ m = .long64)
      ∧ sizeAgrees m csD v.pre v.row = true ∧ addressAgrees (addressSize m csD v.pre) v.dst = true
      ∧ shapeAllowed v.dst = true := by
  simp [rotateFits, rexAllowed, and_assoc]

/-- The decoder reads an instruction exactly when it reads the instruction's parts. -/
theorem decode_eq_ok_view {m : Mode} {csD : Bool} {bs rest : List Byte} {i : Instr} :
    decode m csD bs = .ok (i, rest) ↔ decodeRotate m csD bs = .ok (view i, rest) := by
  unfold decode
  split
  · next v r h =>
    rw [h]
    constructor
    · intro h; cases h; rw [view_ofView]
    · intro h; cases h; rw [ofView_view]
  · next e h => rw [h]; exact ⟨nofun, nofun⟩

section
variable {m : Mode} {csD : Bool} {pre : List Legacy} {rex : Option Rex} {op mr : Byte} {wide : Bool} {c k : Count}
  {bs rest : List Byte}

/-- An opcode byte without a mnemonic in ModRM.reg is refused by name. -/
theorem decodeRotate_shiftGroup (hd : groupsDistinct pre = true) (hx : rex = none ∨ m = .long64)
    (hop : opcodeOf op ≠ none) (hmr : opOfDigit (mr.extractLsb' 3 3) = none) :
    decodeRotate m csD (pre.map legacyByte ++ ((rex.map rexByte).toList ++ op :: mr :: bs)) =
      .error (.reject (.shiftGroup (mr.extractLsb' 3 3))) := by
  obtain ⟨⟨wide, k⟩, hk⟩ := Option.ne_none_iff_exists'.1 hop
  rw [decodeRotate, decodeLegacy_opcode hd hop]
  simp only [bind, Except.bind, decodeRex_append hop hx, takeByte, hk, hmr]

/-- With a mnemonic in ModRM.reg the operand and the count are read, and the row is what was selected. -/
theorem decodeRotate_mnemonic {o : RotOp} {dst : Rm} {tail : List Byte} (hd : groupsDistinct pre = true)
    (hx : rex = none ∨ m = .long64) (hop : opcodeOf op = some (wide, k))
    (hmr : opOfDigit (mr.extractLsb' 3 3) = some o)
    (hdst : decodeRm (addressSize m csD pre) (mr.extractLsb' 6 2) (mr.extractLsb' 0 3) bs = .ok (dst, tail))
    (hc : decodeCount k tail = .ok (c, rest)) :
    decodeRotate m csD (pre.map legacyByte ++ ((rex.map rexByte).toList ++ op :: mr :: bs)) =
      .ok (⟨o, c, rowOf m csD pre rex wide, pre, dst⟩, rest) := by
  have hop' : opcodeOf op ≠ none := by simp [hop]
  rw [decodeRotate, decodeLegacy_opcode hd hop']
  simp only [bind, Except.bind, decodeRex_append hop' hx, takeByte, hop, hmr, hdst, hc]

end

/-- ModRM's fields and the bytes after it, of an operand's encoding. -/
theorem exists_encodeRm (g : BitVec 3) (dst : Rm) : ∃ mod rm bs, encodeRm g dst = modrmByte mod g rm :: bs := by
  cases dst <;> exact ⟨_, _, _, rfl⟩

/-- The parts of an encoding are read back. -/
theorem decodeRotate_encodeRotate {m : Mode} {csD : Bool} {v : Rotate} (rest : List Byte)
    (h : rotateFits m csD v = true) : decodeRotate m csD (encodeRotate v ++ rest) = .ok (v, rest) := by
  obtain ⟨hd, hx, hsize, haddr, hshape⟩ := rotateFits_iff.1 h
  obtain ⟨mod, rm, bs, hrm⟩ := exists_encodeRm v.op.digit v.dst
  obtain ⟨k, hop, hcount⟩ := exists_opcodeOf v.count v.row
  obtain ⟨hmod, hreg, hrm'⟩ := modrmByte_fields mod v.op.digit rm
  have hdst : decodeRm (addressSize m csD v.pre) mod rm (bs ++ (v.count.encode ++ rest)) =
      .ok (v.dst, v.count.encode ++ rest) :=
    decodeRm_of_encodeRm (g := v.op.digit) (by rw [hrm]; rfl) haddr hshape
  have hbytes : encodeRotate v ++ rest = v.pre.map legacyByte ++ ((v.row.rex.map rexByte).toList
      ++ opcodeByte v.count v.row :: modrmByte mod v.op.digit rm :: (bs ++ (v.count.encode ++ rest))) := by
    simp [encodeRotate, Row.encode, hrm]
  rw [hbytes, decodeRotate_mnemonic hd hx hop (by rw [hreg, opOfDigit_digit]) (by rw [hmod, hrm', hdst])
    (hcount rest), rowOf_rex hsize]

/-- What is read is the encoding of parts that fit. -/
theorem encodeRotate_of_decodeRotate {m : Mode} {csD : Bool} {bs rest : List Byte} {v : Rotate}
    (h : decodeRotate m csD bs = .ok (v, rest)) : bs = encodeRotate v ++ rest ∧ rotateFits m csD v = true := by
  unfold decodeRotate at h
  simp only [bind_eq_ok, Prod.exists, takeByte_eq_ok] at h
  obtain ⟨pre, bs₁, hpre, rex, _, hrex, op, _, rfl, h⟩ := h
  split at h
  · cases h
  · next wide k hop =>
    simp only [bind_eq_ok, Prod.exists, takeByte_eq_ok] at h
    obtain ⟨mr, bs₂, rfl, h⟩ := h
    split at h
    · cases h
    · next o hmr =>
      simp only [bind_eq_ok, Prod.exists] at h
      obtain ⟨dst, bs₃, hdst, c, _, hc, h⟩ := h
      cases h
      obtain ⟨hd, rfl⟩ := map_of_decodeLegacy hpre
      obtain ⟨rfl, hx⟩ := append_of_decodeRex hrex
      obtain ⟨rfl, hcop⟩ := append_of_decodeCount hc
      obtain ⟨hrm, haddr, hshape⟩ := encodeRm_of_decodeRm (g := o.digit) hdst
      obtain ⟨hrow, hwide, hsize⟩ := rowOf_fits m csD pre rex wide
      rw [digit_opOfDigit hmr, modrmByte_of_fields, ← digit_opOfDigit hmr] at hrm
      have hopc := opcodeByte_of_opcodeOf (hwide.symm ▸ hop)
      refine ⟨?_, rotateFits_iff.2 ⟨hd, hrow.symm ▸ hx, hsize, haddr, hshape⟩⟩
      simp [encodeRotate, Row.encode, hrow, hcop, hopc, hrm]

/-- The decoder accepts exactly the encodings of the well-formed instructions. -/
theorem decode_eq_ok_iff {m : Mode} {csD : Bool} {bs rest : List Byte} {i : Instr} :
    decode m csD bs = .ok (i, rest) ↔ bs = encode i ++ rest ∧ wellFormed m csD i = true :=
  decode_eq_ok_view.trans
    ⟨encodeRotate_of_decodeRotate, fun ⟨hbs, h⟩ => hbs ▸ decodeRotate_encodeRotate rest h⟩

/-! ### The lengths of the parts (30_encoding.md R116) -/

theorem row_encode_length (w : Row) : w.encode.length = if w.rex.isSome then 1 else 0 := by
  unfold Row.encode
  cases w.rex <;> rfl

/-- Prefixes of different groups are at most four. -/
theorem length_le_of_groupsDistinct {pre : List Legacy} (h : groupsDistinct pre = true) : pre.length ≤ 4 := by
  have hnodup : (pre.map Legacy.group).Nodup :=
    List.pairwise_map.2 (((groupsDistinct_iff pre).1 h).imp Ne.symm)
  have hsub : pre.map Legacy.group ⊆ [1, 2, 3, 4] := by
    intro n hn
    obtain ⟨p, -, rfl⟩ := List.mem_map.1 hn
    cases p <;> simp [Legacy.group]
  simpa using (hnodup.subperm hsub).length_le

/-- ModRM, with at most a SIB byte and four bytes of displacement. -/
theorem encodeRm_length_bounds (g : BitVec 3) (dst : Rm) :
    1 ≤ (encodeRm g dst).length ∧ (encodeRm g dst).length ≤ 6 := by
  cases dst with
  | mem16 b d => cases d <;> simp [encodeRm, Disp16.encode, bytes16]
  | mem b d => cases d <;> simp [encodeRm, Disp32.encode, bytes32]
  | sib sc ix b d => cases d <;> simp [encodeRm, Disp32.encode, bytes32]
  | _ => simp [encodeRm, bytes16, bytes32]

theorem count_encode_length_le (c : Count) : c.encode.length ≤ 1 := by
  cases c <;> simp [Count.encode]

theorem encodeRotate_length (v : Rotate) :
    (encodeRotate v).length = v.pre.length + (if v.row.rex.isSome then 1 else 0) + 1
      + (encodeRm v.op.digit v.dst).length + v.count.encode.length := by
  simp only [encodeRotate, List.length_append, List.length_map, row_encode_length, List.length_singleton]

/-! ### The operand size (30_encoding.md R107) -/

theorem row_rex_of_b64 {w : Row} (h : w.size = .b64) : ∃ x, w.rex = some x ∧ x.w = true := by
  cases w with
  | rm64 y => exact ⟨_, rfl, rfl⟩
  | _ => cases h

theorem row_rex_w_of_b16_or_b32 {w : Row} (h : w.size = .b16 ∨ w.size = .b32) {x : Rex} (hx : w.rex = some x) :
    x.w = false := by
  cases w with
  | rm16 y =>
    obtain ⟨_, -, rfl⟩ := Option.map_eq_some_iff.1 hx
    rfl
  | rm32 y =>
    obtain ⟨_, -, rfl⟩ := Option.map_eq_some_iff.1 hx
    rfl
  | _ => simp [Row.size] at h

theorem row_size_of_sizeAgrees {m : Mode} {csD : Bool} {pre : List Legacy} {w : Row}
    (hw : w.size = .b16 ∨ w.size = .b32) (h : sizeAgrees m csD pre w = true) :
    w.size = wideSize m csD pre false := by
  cases w with
  | rm16 y => exact (of_decide_eq_true h).symm
  | rm32 y => exact (of_decide_eq_true h).symm
  | _ => simp [Row.size] at hw

/-- Where the default is 16 bits, `66` selects 32. -/
theorem wideSize_of_default16 {m : Mode} {csD : Bool} (pre : List Legacy) (h : default16 m csD = true) :
    wideSize m csD pre false = .b32 ↔ Legacy.opsize ∈ pre := by
  simp [wideSize, h]

/-- Where the default is 32 bits, `66` selects 16. -/
theorem wideSize_of_default32 {m : Mode} {csD : Bool} (pre : List Legacy) (h : default16 m csD = false) :
    wideSize m csD pre false = .b16 ↔ Legacy.opsize ∈ pre := by
  simp [wideSize, h]

/-! ## The obligations about the encoding -/

/-- Settles O1, one direction of `decode_eq_ok_iff`. -/
theorem decodeEncode : Obligations.DecodeEncode := fun _ _ _ _ h => decode_eq_ok_iff.2 ⟨rfl, h⟩

/-- Settles O2, the other direction of `decode_eq_ok_iff`. -/
theorem encodeDecode : Obligations.EncodeDecode := fun _ _ _ _ _ h => decode_eq_ok_iff.1 h

/-- Settles O4: every byte before ModRM is read, and from 4 on a `/digit` has no mnemonic. -/
theorem shiftGroupRefused : Obligations.ShiftGroupRefused := by
  intro m csD pre rex op mr rest hd hx hop hmr
  have hop' : opcodeOf op ≠ none := by
    revert op; decide
  have hnone (g : BitVec 3) : 4 ≤ g.toNat → opOfDigit g = none := by
    revert g; decide
  rw [decode, List.append_assoc, decodeRotate_shiftGroup hd hx hop' (hnone _ hmr)]

/-- Settles O5: at most 4 prefixes, REX, opcode, 6 bytes of operand and an immediate. -/
theorem lengthBounds : Obligations.LengthBounds := by
  intro m csD i h
  have hlen : (encode i).length = _ := encodeRotate_length (view i)
  have hpre := length_le_of_groupsDistinct (rotateFits_iff.1 h).1
  have hrex : (if (view i).row.rex.isSome then 1 else 0) ≤ 1 := by split <;> decide
  obtain ⟨hmodrm, hdst⟩ := encodeRm_length_bounds (view i).op.digit (view i).dst
  have hcount := count_encode_length_le (view i).count
  refine ⟨by omega, by omega, hlen.trans (congrArg₂ (· + ·) ?_ ?_)⟩
  · cases (view i).dst with
    | mem16 b d => cases d <;> rfl
    | mem b d => cases d <;> rfl
    | sib sc ix b d => cases d <;> rfl
    | _ => rfl
  · cases (view i).count <;> rfl

/-- Settles O6: what decodes fits the mode, so it has no REX byte, which a row of 64 bits has. -/
theorem noRexOutsideLong64 : Obligations.NoRexOutsideLong64 := by
  intro m csD bs rest i hm h
  obtain ⟨-, hrex, -⟩ := rotateFits_iff.1 (decode_eq_ok_iff.1 h).2
  have hnone := hrex.resolve_right hm
  refine ⟨hnone, fun hsize => ?_⟩
  obtain ⟨x, hx, -⟩ := row_rex_of_b64 hsize
  rw [hnone] at hx
  cases hx

/-- Settles O56: what decodes fits the mode, whose default and `66` select the size of a row without
REX.W. -/
theorem decodedSize : Obligations.DecodedSize := by
  intro m csD bs rest i h
  obtain ⟨-, hrex, hsize, -⟩ := rotateFits_iff.1 (decode_eq_ok_iff.1 h).2
  refine ⟨fun h64 => ?_, fun hw => ⟨fun x => row_rex_w_of_b16_or_b32 hw, ?_⟩⟩
  · obtain ⟨x, hx, hxw⟩ := row_rex_of_b64 h64
    exact ⟨hrex.resolve_left (by simp [hx]), x, hx, hxw⟩
  · rw [row_size_of_sizeAgrees hw hsize]
    refine ⟨fun hm => ?_, fun hm => ?_, fun hm hd => ?_, fun hm hd => ?_⟩
    · exact wideSize_of_default32 _ (hm ▸ rfl)
    · exact wideSize_of_default16 _ (by rcases hm with rfl | rfl <;> rfl)
    · exact wideSize_of_default16 _ (by rcases hm with rfl | rfl <;> rw [hd] <;> rfl)
    · exact wideSize_of_default32 _ (by rcases hm with rfl | rfl <;> rw [hd] <;> rfl)

/-- Settles O3, by running the decoder on each word. -/
theorem sampleWords : Obligations.SampleWords := by
  refine ⟨?_, ?_, ?_, ?_, ?_, ?_, ?_, ?_, ?_, ?_, ?_⟩ <;> decide

end Sys2Proof

/-! ## Proofs about operands (spec/30_encoding.md R110 to R112, R115): the facts they share -/

namespace Sys2Proof.Machine

/-! ### Address arithmetic

Every part of an effective address is the 64-bit word of an integer (`BitVec.ofInt`), which sums respect, and
`wrapAddress` reduces that integer modulo `2^A`. -/

theorem toNat_wrapAddress_ofInt (a : AddrSize) (e : Int) :
    ((wrapAddress a (BitVec.ofInt 64 e)).toNat : Int) = e % 2 ^ a.bits := by
  cases a <;> simp only [wrapAddress, BitVec.toNat_setWidth, BitVec.toNat_ofInt, AddrSize.bits] <;> omega

theorem disp16Value_eq_ofInt (d : Disp16) : disp16Value d = BitVec.ofInt 64 (disp16Int d) := by
  cases d <;> rfl

theorem disp32Value_eq_ofInt (d : Disp32) : disp32Value d = BitVec.ofInt 64 (disp32Int d) := by
  cases d <;> rfl

theorem toNat_addressReg (s : State) (a : AddrSize) (r : BitVec 4) :
    (s.addressReg a r).toNat = (s.greg r).word.toNat % 2 ^ a.bits := by
  have hwide {n : Nat} (x : BitVec n) (hn : n ≤ 64) : (x.setWidth 64).toNat = x.toNat :=
    (BitVec.toNat_setWidth _ _).trans (Nat.mod_eq_of_lt (x.isLt.trans_le (Nat.pow_le_pow_right (by decide) hn)))
  cases a with
  | a16 => exact (hwide _ (by decide)).trans (GReg.toNat_view _ .b16)
  | a32 => exact (hwide _ (by decide)).trans (GReg.toNat_view _ .b32)
  | a64 => exact GReg.toNat_view _ .b64

/-- The register of 30_encoding.md R110 (`reg_A`). -/
theorem addressReg_eq_ofInt (s : State) (a : AddrSize) (r : BitVec 4) :
    s.addressReg a r = BitVec.ofInt 64 ((s.greg r).word.toNat % 2 ^ a.bits) := by
  have h := toNat_addressReg s a r
  zify at h
  rw [← h, BitVec.ofInt_natCast, BitVec.ofNat_toNat, BitVec.setWidth_eq]

theorem toNat_regNumber (high : Bool) (low : BitVec 3) :
    (regNumber high low).toNat = (if high then 8 else 0) + low.toNat := by
  rw [regNumber_eq_ofNat, BitVec.toNat_ofNat]
  split <;> omega

/-- The number of a base register (30_encoding.md R103). -/
theorem toNat_regNumber_rexB (w : Row) (b : BitVec 3) :
    (regNumber w.rexB b).toNat = extendedNumber w Rxb.b b := by
  rw [toNat_regNumber, extendedNumber, Row.rexB]
  cases w.rex <;> rfl

/-- The number of an index register (30_encoding.md R103). -/
theorem toNat_regNumber_rexX (w : Row) (ix : BitVec 3) :
    (regNumber w.rexX ix).toNat = extendedNumber w Rxb.x ix := by
  rw [toNat_regNumber, extendedNumber, Row.rexX]
  cases w.rex <;> rfl

/-- The index part (30_encoding.md R111) as a number, which the scaled register is modulo `2^64`. -/
theorem indexPart_eq_ofInt (s : State) (a : AddrSize) (w : Row) (sc : BitVec 2) (ix : BitVec 3) :
    s.indexPart a w sc ix = BitVec.ofInt 64 (if (regNumber w.rexX ix).toNat = 4 then 0
      else (s.greg (regNumber w.rexX ix)).word.toNat % 2 ^ a.bits * 2 ^ sc.toNat : Nat) := by
  have hfour : regNumber w.rexX ix = 4#4 ↔ (regNumber w.rexX ix).toNat = 4 := BitVec.toNat_inj.symm
  simp only [State.indexPart, hfour]
  split
  · rfl
  · rw [BitVec.ofInt_natCast, ← toNat_addressReg]
    exact BitVec.eq_of_toNat_eq (by rw [BitVec.toNat_shiftLeft, BitVec.toNat_ofNat, Nat.shiftLeft_eq])

/-! ### Segments (30_encoding.md R115) -/

/-- Among prefixes of different groups at most one is a segment override. -/
theorem overrideOf_iff {pre : List Legacy} (hd : groupsDistinct pre = true) (r : SegReg) :
    overrideOf pre = some r ↔ Legacy.seg r ∈ pre := by
  induction pre with
  | nil => simp [overrideOf]
  | cons p ps ih =>
    rw [groupsDistinct_iff, List.pairwise_cons, ← groupsDistinct_iff] at hd
    obtain ⟨hp, hps⟩ := hd
    cases p with
    | seg q =>
      have hnot : Legacy.seg r ∉ ps := fun h => hp _ h rfl
      simp [overrideOf, hnot, eq_comm]
    | _ => simp [overrideOf, ih hps]

section
variable {m : Mode} {v : Rotate} {r : SegReg}

theorem segmentOf_none (h : overrideOf v.pre = none) : segmentOf m v = defaultSegment v.row v.dst := by
  rw [segmentOf, h]

/-- An override counts outside 64-bit mode, and everywhere if it is FS or GS. -/
theorem segmentOf_override (h : overrideOf v.pre = some r) (hr : m ≠ .long64 ∨ r = .fs ∨ r = .gs) :
    segmentOf m v = r := by
  rw [segmentOf, h]
  exact if_pos (by simpa [honoured, or_assoc] using hr)

/-- In 64-bit mode every other override is ignored. -/
theorem segmentOf_long64 (hm : m = .long64) (hfs : overrideOf v.pre ≠ some .fs)
    (hgs : overrideOf v.pre ≠ some .gs) : segmentOf m v = defaultSegment v.row v.dst := by
  cases h : overrideOf v.pre with
  | none => exact segmentOf_none h
  | some r =>
    rw [h] at hfs hgs
    rw [segmentOf, h]
    exact if_neg (by simp_all [honoured])

end

/-- The default segment is SS or DS. -/
theorem defaultSegment_cases (w : Row) (dst : Rm) : defaultSegment w dst = .ss ∨ defaultSegment w dst = .ds := by
  cases dst with
  | mem16 b d => cases b <;> simp [defaultSegment]
  | mem b d => exact ite_eq_or_eq _ _ _
  | sib sc ix b d => exact ite_eq_or_eq _ _ _
  | _ => exact .inr rfl

theorem regNumber_rexB_eq_iff (w : Row) (b : BitVec 3) (r : BitVec 4) :
    regNumber w.rexB b = r ↔ extendedNumber w Rxb.b b = r.toNat := by
  rw [← toNat_regNumber_rexB, BitVec.toNat_inj]

/-! ## The obligations about operands -/

/-- Settles O33: each form is `wrapAddress` of the word of its sum. -/
theorem effectiveAddressSums : Obligations.EffectiveAddress := by
  intro s a w next b ix sc d d32 rb rx base index hrb hrx hbase hindex
  obtain rfl : regNumber w.rexB b = rb := BitVec.eq_of_toNat_eq (by rw [toNat_regNumber_rexB, hrb])
  obtain rfl : regNumber w.rexX ix = rx := BitVec.eq_of_toNat_eq (by rw [toNat_regNumber_rexX, hrx])
  have hb : s.addressReg a (regNumber w.rexB b) = BitVec.ofInt 64 base := hbase ▸ addressReg_eq_ofInt s a _
  have hix : s.indexPart a w sc ix = BitVec.ofInt 64 index := hindex ▸ indexPart_eq_ofInt s a w sc ix
  have hnext : next = BitVec.ofInt 64 next.toNat := by
    rw [BitVec.ofInt_natCast, BitVec.ofNat_toNat, BitVec.setWidth_eq]
  refine ⟨?_, ?_, ?_, fun hm => ?_, fun hm => ?_⟩
  · rw [effectiveAddress, hb, disp32Value_eq_ofInt, ← BitVec.ofInt_add, toNat_wrapAddress_ofInt]
  · rw [effectiveAddress, hb, hix, disp32Value_eq_ofInt, ← BitVec.ofInt_add, ← BitVec.ofInt_add,
      toNat_wrapAddress_ofInt]
  · rw [effectiveAddress, hix, BitVec.signExtend, ← BitVec.ofInt_add, toNat_wrapAddress_ofInt]
  · rw [effectiveAddress, if_pos hm, BitVec.signExtend, ← toNat_wrapAddress_ofInt, BitVec.ofInt_add, ← hnext]
  · rw [effectiveAddress, if_neg hm, BitVec.signExtend, zero_add, toNat_wrapAddress_ofInt]

/-- Settles O34: each of the eight combinations is a word of its sum; a displacement alone has 16 bits. -/
theorem effectiveAddress16 : Obligations.EffectiveAddress16 := by
  intro s w next d d16 bx bp si di hbx hbp hsi hdi
  have hreg (r : BitVec 4) := addressReg_eq_ofInt s .a16 r
  refine ⟨fun b => ?_, ?_⟩
  · rw [← toNat_wrapAddress_ofInt .a16, BitVec.ofInt_add, ← disp16Value_eq_ofInt, effectiveAddress]
    cases b <;> simp only [State.base16, hreg, ← BitVec.ofInt_add, hbx, hbp, hsi, hdi]
  · rw [effectiveAddress, BitVec.toNat_setWidth, Nat.mod_eq_of_lt (by omega)]

/-- Settles O35: the override decides where it counts, else the default segment, which is SS or DS. -/
theorem segmentChoice : Obligations.SegmentChoice := by
  intro m v
  refine ⟨fun r hm h => segmentOf_override h (.inl hm), segmentOf_none,
    fun _ h => segmentOf_override h (.inr (.inl rfl)), fun _ h => segmentOf_override h (.inr (.inr rfl)),
    segmentOf_long64, fun hm => ?_, overrideOf_iff, fun _ => ⟨rfl, rfl, rfl⟩, fun b d hsi hdi hbp => ?_,
    fun b d => ?_, fun sc ix b d => ?_, fun _ => rfl, fun _ => rfl, fun _ _ _ => rfl⟩
  · by_cases hfs : overrideOf v.pre = some .fs
    · rw [segmentOf_override hfs (.inr (.inl rfl))]
      decide
    · by_cases hgs : overrideOf v.pre = some .gs
      · rw [segmentOf_override hgs (.inr (.inr rfl))]
        decide
      · rw [segmentOf_long64 hm hfs hgs]
        rcases defaultSegment_cases v.row v.dst with h | h <;> rw [h] <;> decide
  · cases b with
    | bpSi => exact absurd rfl hsi
    | bpDi => exact absurd rfl hdi
    | bp => exact absurd rfl hbp
    | _ => rfl
  · exact if_congr (regNumber_rexB_eq_iff _ _ _) rfl rfl
  · exact if_congr (or_congr (regNumber_rexB_eq_iff _ _ _) (regNumber_rexB_eq_iff _ _ _)) rfl rfl

end Sys2Proof.Machine

/-! ## Proofs about rotates (spec/40_rotate_common.md): the facts they share -/

namespace Sys2Proof.Machine

/-! ### Rotations of a bit vector

The loops of the rotate functions turn one bit at a time; these are the laws of `rotateLeft` and `rotateRight` by
which turns add up, undo each other and keep the number of 1 bits. -/

section
variable {w : Nat}

/-- Two rotations to the left are one by the sum. -/
theorem rotateLeft_rotateLeft (x : BitVec w) (a b : Nat) :
    (x.rotateLeft a).rotateLeft b = x.rotateLeft (a + b) := by
  refine BitVec.eq_of_getMsbD_eq fun i hi => ?_
  have hlt : (b + i) % w < w := Nat.mod_lt _ (by omega)
  simp only [BitVec.getMsbD_rotateLeft, hi, hlt, decide_true, Bool.true_and, Nat.add_mod_mod, Nat.add_assoc]

/-- A rotation by a multiple of the width moves no bit. -/
theorem rotateLeft_of_dvd (x : BitVec w) {t : Nat} (h : w ∣ t) : x.rotateLeft t = x := by
  refine BitVec.eq_of_getMsbD_eq fun i hi => ?_
  obtain ⟨k, rfl⟩ := h
  rw [BitVec.getMsbD_rotateLeft, Nat.mul_add_mod, Nat.mod_eq_of_lt hi, decide_eq_true hi, Bool.true_and]

/-- A rotation to the right is one to the left by what is missing to the width. -/
theorem rotateRight_eq_rotateLeft (x : BitVec w) (t : Nat) : x.rotateRight t = x.rotateLeft (w - t % w) := by
  refine BitVec.eq_of_getMsbD_eq fun i hi => ?_
  have ht : t % w < w := Nat.mod_lt _ (by omega)
  rw [BitVec.getMsbD_rotateRight, BitVec.getMsbD_rotateLeft]
  split
  · rw [show w + i - t % w = w - t % w + i by omega]
  · next h =>
    have hi' : w - t % w + i = i - t % w + w := by omega
    have hlt : i - t % w < w := by omega
    rw [hi', Nat.add_mod_right, Nat.mod_eq_of_lt hlt]

/-- Rotations to the left and to the right by one amount undo each other. -/
theorem rotateRight_eq_iff {x y : BitVec w} {t : Nat} : x.rotateRight t = y ↔ x = y.rotateLeft t := by
  rcases Nat.eq_zero_or_pos w with rfl | hw
  · exact iff_of_true (Subsingleton.elim _ _) (Subsingleton.elim _ _)
  have hround : w ∣ w - t % w + t := by
    have ht := Nat.mod_lt t hw
    have hdiv := Nat.div_add_mod t w
    exact ⟨1 + t / w, by rw [Nat.mul_add]; omega⟩
  rw [rotateRight_eq_rotateLeft]
  constructor
  · rintro rfl
    rw [rotateLeft_rotateLeft, rotateLeft_of_dvd _ hround]
  · rintro rfl
    rw [rotateLeft_rotateLeft, Nat.add_comm, rotateLeft_of_dvd _ hround]

theorem rotateRight_rotateLeft (x : BitVec w) (t : Nat) : (x.rotateLeft t).rotateRight t = x :=
  rotateRight_eq_iff.2 rfl

/-- Two rotations to the right are one by the sum. -/
theorem rotateRight_rotateRight (x : BitVec w) (a b : Nat) :
    (x.rotateRight a).rotateRight b = x.rotateRight (a + b) := by
  rw [rotateRight_eq_iff, rotateRight_eq_iff, rotateLeft_rotateLeft, Nat.add_comm b a, ← rotateRight_eq_iff]

theorem rotateRight_of_dvd (x : BitVec w) {t : Nat} (h : w ∣ t) : x.rotateRight t = x :=
  rotateRight_eq_iff.2 (rotateLeft_of_dvd x h).symm

/-- The bits after one turn to the left: the top bit went to the bottom. -/
theorem getLsbD_rotateLeft_one (x : BitVec w) {i : Nat} (hi : i < w) :
    (x.rotateLeft 1).getLsbD i = if i = 0 then x.msb else x.getLsbD (i - 1) := by
  rcases Nat.lt_or_ge 1 w with hw | hw
  · rw [BitVec.getLsbD_rotateLeft_of_le hw, BitVec.msb_eq_getLsbD_last]
    split
    · next h => simp [h]
    · next h => simp [h, hi]
  · obtain rfl : w = 1 := by omega
    simp [BitVec.msb_eq_getLsbD_last, Nat.lt_one_iff.1 hi]

/-- The bits after one turn to the right: the bottom bit went to the top. -/
theorem getLsbD_rotateRight_one (x : BitVec w) {i : Nat} (hi : i < w) :
    (x.rotateRight 1).getLsbD i = if i + 1 < w then x.getLsbD (i + 1) else x.getLsbD 0 := by
  rcases Nat.lt_or_ge 1 w with hw | hw
  · rw [BitVec.getLsbD_rotateRight_of_lt hw]
    split
    · next h => simp [show i < w - 1 by omega, Nat.add_comm]
    · next h => simp [show ¬i < w - 1 by omega, hi, show i - (w - 1) = 0 by omega]
  · obtain rfl : w = 1 := by omega
    simp [Nat.lt_one_iff.1 hi]

theorem rotateLeft_one_eq_concat (x : BitVec (w + 1)) : x.rotateLeft 1 = (x.setWidth w).concat x.msb := by
  refine BitVec.eq_of_getLsbD_eq fun i hi => ?_
  rw [getLsbD_rotateLeft_one x hi, BitVec.getLsbD_concat, BitVec.getLsbD_setWidth]
  split
  · rfl
  · simp [show i - 1 < w by omega]

/-- A rotation keeps the number of 1 bits: each turn moves one bit from the top to the bottom. -/
theorem cpop_rotateLeft (x : BitVec w) (t : Nat) : (x.rotateLeft t).cpop = x.cpop := by
  cases w with
  | zero => exact Subsingleton.elim _ _
  | succ w =>
    induction t with
    | zero => rw [rotateLeft_of_dvd x (Nat.dvd_zero _)]
    | succ t ih =>
      rw [← rotateLeft_rotateLeft, rotateLeft_one_eq_concat, ← BitVec.cpop_cons_eq_cpop_concat,
        BitVec.cons_msb_setWidth, ih]

theorem cpop_rotateRight (x : BitVec w) (t : Nat) : (x.rotateRight t).cpop = x.cpop := by
  rw [rotateRight_eq_rotateLeft, cpop_rotateLeft]

end

/-! ### The loops as rotations (41_rcl.md R200 to 44_ror.md R260) -/

section
variable {n : Nat}

/-- One turn of the ROL loop (43_rol.md R240). -/
theorem rolTurn_eq_rotateLeft (d : BitVec n) : (d ++ BitVec.ofBool d.msb).setWidth n = d.rotateLeft 1 := by
  refine BitVec.eq_of_getLsbD_eq fun i hi => ?_
  rw [getLsbD_rotateLeft_one d hi, BitVec.getLsbD_setWidth, BitVec.getLsbD_append, BitVec.getLsbD_ofBool]
  rcases Nat.eq_zero_or_pos i with rfl | h
  · simp [hi]
  · simp [hi, show ¬i < 1 by omega, show ¬i = 0 by omega]

/-- One turn of the ROR loop (44_ror.md R260). -/
theorem rorTurn_eq_rotateRight (d : BitVec n) :
    (BitVec.ofBool (d.getLsbD 0) ++ d).extractLsb' 1 n = d.rotateRight 1 := by
  refine BitVec.eq_of_getLsbD_eq fun i hi => ?_
  rw [getLsbD_rotateRight_one d hi, BitVec.getLsbD_extractLsb', BitVec.getLsbD_append, BitVec.getLsbD_ofBool]
  rcases Nat.lt_or_ge (i + 1) n with h | h
  · simp [hi, h, Nat.add_comm]
  · simp [hi, show ¬1 + i < n by omega, show ¬i + 1 < n by omega, show 1 + i - n = 0 by omega]

theorem rolLoop_eq_rotateLeft (t : Nat) (d : BitVec n) : rolLoop t d = d.rotateLeft t := by
  induction t generalizing d with
  | zero => exact (rotateLeft_of_dvd d (Nat.dvd_zero n)).symm
  | succ t ih => rw [rolLoop, ih, rolTurn_eq_rotateLeft, rotateLeft_rotateLeft, Nat.add_comm 1 t]

theorem rorLoop_eq_rotateRight (t : Nat) (d : BitVec n) : rorLoop t d = d.rotateRight t := by
  induction t generalizing d with
  | zero => exact (rotateRight_of_dvd d (Nat.dvd_zero n)).symm
  | succ t ih => rw [rorLoop, ih, rorTurn_eq_rotateRight, rotateRight_rotateRight, Nat.add_comm 1 t]

/-- The carry above the operand: the `n + 1` bits that RCL and RCR rotate. -/
def carryWord (r : BitVec n × Bool) : BitVec (1 + n) := BitVec.ofBool r.2 ++ r.1

@[simp] theorem setWidth_carryWord (r : BitVec n × Bool) : (carryWord r).setWidth n = r.1 :=
  BitVec.setWidth_append_eq_right

@[simp] theorem msb_carryWord (r : BitVec n × Bool) : (carryWord r).msb = r.2 := by
  simp [carryWord, BitVec.msb_append]

theorem getLsbD_carryWord (r : BitVec n × Bool) (i : Nat) :
    (carryWord r).getLsbD i = if i < n then r.1.getLsbD i else (decide (i = n) && r.2) := by
  rw [carryWord, BitVec.getLsbD_append, BitVec.getLsbD_ofBool]
  split
  · rfl
  · next h => simp only [show i - n = 0 ↔ i = n by omega]

theorem carryWord_inj {r q : BitVec n × Bool} : carryWord r = carryWord q ↔ r = q := by
  refine ⟨fun h => Prod.ext ?_ ?_, fun h => h ▸ rfl⟩
  · rw [← setWidth_carryWord r, h, setWidth_carryWord]
  · rw [← msb_carryWord r, h, msb_carryWord]

/-- One turn of the RCL loop (41_rcl.md R200). -/
theorem rclTurn_eq_rotateLeft (hn : 0 < n) (d : BitVec n) (c : Bool) :
    carryWord ((d ++ BitVec.ofBool c).setWidth n, d.msb) = (carryWord (d, c)).rotateLeft 1 := by
  refine BitVec.eq_of_getLsbD_eq fun i hi => ?_
  simp only [getLsbD_rotateLeft_one _ hi, msb_carryWord, getLsbD_carryWord, BitVec.getLsbD_setWidth,
    BitVec.getLsbD_append, BitVec.getLsbD_ofBool, BitVec.msb_eq_getLsbD_last d]
  rcases Nat.lt_or_ge i n with h | h
  · rcases Nat.eq_zero_or_pos i with rfl | h0
    · simp [hn]
    · simp [h, show i ≠ 0 by omega, show i - 1 < n by omega]
  · obtain rfl : i = n := by omega
    simp [hn, hn.ne']

/-- One turn of the RCR loop (42_rcr.md R220). -/
theorem rcrTurn_eq_rotateRight (hn : 0 < n) (d : BitVec n) (c : Bool) :
    carryWord ((BitVec.ofBool c ++ d).extractLsb' 1 n, d.getLsbD 0) = (carryWord (d, c)).rotateRight 1 := by
  change carryWord ((carryWord (d, c)).extractLsb' 1 n, d.getLsbD 0) = _
  refine BitVec.eq_of_getLsbD_eq fun i hi => ?_
  simp only [getLsbD_rotateRight_one _ hi, getLsbD_carryWord, BitVec.getLsbD_extractLsb']
  rcases Nat.lt_or_ge i n with h | h
  · simp [h, Nat.add_comm]
  · obtain rfl : i = n := by omega
    simp [hn, Nat.add_comm]

theorem carryWord_rclLoop (hn : 0 < n) (t : Nat) (d : BitVec n) (c : Bool) :
    carryWord (rclLoop t d c) = (carryWord (d, c)).rotateLeft t := by
  induction t generalizing d c with
  | zero => exact (rotateLeft_of_dvd _ (Nat.dvd_zero _)).symm
  | succ t ih => rw [rclLoop, ih, rclTurn_eq_rotateLeft hn, rotateLeft_rotateLeft, Nat.add_comm 1 t]

theorem carryWord_rcrLoop (hn : 0 < n) (t : Nat) (d : BitVec n) (c : Bool) :
    carryWord (rcrLoop t d c) = (carryWord (d, c)).rotateRight t := by
  induction t generalizing d c with
  | zero => exact (rotateRight_of_dvd _ (Nat.dvd_zero _)).symm
  | succ t ih => rw [rcrLoop, ih, rcrTurn_eq_rotateRight hn, rotateRight_rotateRight, Nat.add_comm 1 t]

end

theorem opSize_bits_ge_two (n : OpSize) : 2 ≤ n.bits := by
  cases n <;> decide

theorem opSize_bits_pos (n : OpSize) : 0 < n.bits :=
  Nat.zero_lt_of_lt (opSize_bits_ge_two n)

/-! ### The count and the amount (40_rotate_common.md R161 to R163) -/

theorem maskedCount_eq_mod (n : OpSize) (count : Byte) :
    maskedCount n count = count.toNat % (if n = .b64 then 64 else 32) := by
  rw [maskedCount, BitVec.toNat_and]
  cases n with
  | b64 => exact Nat.and_two_pow_sub_one_eq_mod _ 6
  | _ => exact Nat.and_two_pow_sub_one_eq_mod _ 5

/-- The number of bits a mnemonic rotates (40_rotate_common.md R163): with the carry or without it. -/
def rotatePeriod (op : RotOp) (n : OpSize) : Nat := if op = .rcl ∨ op = .rcr then n.bits + 1 else n.bits

section
variable {op : RotOp} {n : OpSize} {m : Nat}

theorem bits_le_rotatePeriod : n.bits ≤ rotatePeriod op n := by
  unfold rotatePeriod
  split <;> omega

/-- A masked count at 32 and 64 bits is below the period, so it is its own remainder. -/
theorem mod_rotatePeriod_of_wide (hm : m < if n = .b64 then 64 else 32) (hn : n = .b32 ∨ n = .b64) :
    m % rotatePeriod op n = m := by
  have hbits : n.bits = if n = .b64 then 64 else 32 := by rcases hn with rfl | rfl <;> rfl
  exact Nat.mod_eq_of_lt (hm.trans_le (hbits ▸ bits_le_rotatePeriod))

/-- The effective amount is the remainder by the period at every size (40_rotate_common.md R163). -/
theorem rotateAmount_eq_mod (hm : m < if n = .b64 then 64 else 32) :
    rotateAmount op n m = m % rotatePeriod op n := by
  have hwide := mod_rotatePeriod_of_wide (op := op) hm
  cases op with
  | rol => rfl
  | ror => rfl
  | _ =>
    cases n with
    | b8 => rfl
    | b16 => rfl
    | b32 => exact (hwide (.inl rfl)).symm
    | b64 => exact (hwide (.inr rfl)).symm

/-- The counts of R163 that are a multiple of the period, which only 8 and 16 bits have. -/
theorem mod_rotatePeriod_eq_zero (hm : m < if n = .b64 then 64 else 32) (h0 : m ≠ 0) :
    m % rotatePeriod op n = 0 ↔
      ((op = .rcl ∨ op = .rcr) ∧ ((n = .b8 ∧ m ∈ [9, 18, 27]) ∨ (n = .b16 ∧ m = 17)))
        ∨ ((op = .rol ∨ op = .ror) ∧ ((n = .b8 ∧ m ∈ [8, 16, 24]) ∨ (n = .b16 ∧ m = 16))) := by
  have hplain : op = .rol ∨ op = .ror ↔ ¬(op = .rcl ∨ op = .rcr) := by cases op <;> decide
  rw [hplain, rotatePeriod]
  by_cases hcarry : op = .rcl ∨ op = .rcr
  all_goals cases n <;> simp [hcarry, OpSize.bits] at hm ⊢ <;> omega

end

theorem rotateAmount_zero (op : RotOp) (n : OpSize) : rotateAmount op n 0 = 0 :=
  (rotateAmount_eq_mod (by split <;> decide)).trans (Nat.zero_mod _)

/-- At a masked count of 1 every mnemonic makes one turn. -/
theorem rotateAmount_one (op : RotOp) (n : OpSize) : rotateAmount op n 1 = 1 :=
  (rotateAmount_eq_mod (by split <;> decide)).trans
    (Nat.mod_eq_of_lt ((opSize_bits_ge_two n).trans bits_le_rotatePeriod))

/-! ### What the rotate functions answer (41_rcl.md R200 to 44_ror.md R260) -/

/-- The answer of a rotate function as far as the flag rules use it: OF at a masked count of 1 only
(40_rotate_common.md R167 to R169). -/
structure Rotated.Agrees {n : Nat} (r : Rotated n) (m : Nat) (res : BitVec n) (cf ov : Bool) : Prop where
  res_eq : r.res = res
  cf_eq : r.cf = cf
  of_eq : m = 1 → r.of = ov

section
variable {n : OpSize} {d : BitVec n.bits} {c : Bool} {m : Nat}

/-- The loop of RCL turns carry and operand together (41_rcl.md R200). -/
theorem rcl_agrees {x : BitVec (1 + n.bits)}
    (hx : x = (carryWord (d, c)).rotateLeft (rotateAmount .rcl n m)) :
    (rcl n d c m).Agrees m (x.setWidth n.bits) x.msb (x.getLsbD (n.bits - 1) ^^ x.msb) := by
  have hn := opSize_bits_pos n
  obtain rfl := hx.trans (carryWord_rclLoop hn _ d c).symm
  refine ⟨(setWidth_carryWord _).symm, (msb_carryWord _).symm, fun _ => ?_⟩
  rw [msb_carryWord, getLsbD_carryWord, if_pos (by omega), ← BitVec.msb_eq_getLsbD_last]
  rfl

/-- The loop of RCR turns carry and operand together (42_rcr.md R220). After one turn the result's top two bits are
the old carry and the old top bit, from which the model takes OF. -/
theorem rcr_agrees {x : BitVec (1 + n.bits)}
    (hx : x = (carryWord (d, c)).rotateRight (rotateAmount .rcr n m)) :
    (rcr n d c m).Agrees m (x.setWidth n.bits) x.msb
      (x.getLsbD (n.bits - 1) ^^ x.getLsbD (n.bits - 2)) := by
  have hn := opSize_bits_ge_two n
  have hloop : x = carryWord _ := hx.trans (carryWord_rcrLoop (opSize_bits_pos n) _ d c).symm
  refine ⟨hloop ▸ (setWidth_carryWord _).symm, hloop ▸ (msb_carryWord _).symm, fun hm => ?_⟩
  subst hm
  rw [rotateAmount_one] at hx
  have htop : x.getLsbD (n.bits - 1) = c := by
    rw [hx, getLsbD_rotateRight_one _ (by omega), if_pos (by omega), getLsbD_carryWord, if_neg (by omega)]
    simp [show n.bits - 1 + 1 = n.bits by omega]
  have hnext : x.getLsbD (n.bits - 2) = d.msb := by
    rw [hx, getLsbD_rotateRight_one _ (by omega), if_pos (by omega), getLsbD_carryWord, if_pos (by omega),
      BitVec.msb_eq_getLsbD_last, show n.bits - 2 + 1 = n.bits - 1 by omega]
  rw [htop, hnext]
  exact Bool.xor_comm d.msb c

/-- CF is the bit that came round to the bottom (43_rol.md R240). -/
theorem rol_agrees {x : BitVec n.bits} (hx : x = d.rotateLeft (rotateAmount .rol n m)) :
    (rol n d c m).Agrees m x (if m = 0 then c else x.getLsbD 0) (x.msb ^^ x.getLsbD 0) := by
  obtain rfl := hx.trans (rolLoop_eq_rotateLeft _ d).symm
  exact ⟨rfl, rfl, fun hm => by rw [rol, if_neg (by omega)]⟩

/-- CF is the bit that came round to the top (44_ror.md R260). -/
theorem ror_agrees {x : BitVec n.bits} (hx : x = d.rotateRight (rotateAmount .ror n m)) :
    (ror n d c m).Agrees m x (if m = 0 then c else x.msb) (x.msb ^^ x.getLsbD (n.bits - 2)) := by
  obtain rfl := hx.trans (rorLoop_eq_rotateRight _ d).symm
  exact ⟨rfl, rfl, fun _ => rfl⟩

end

/-- At a masked count of 0 a rotate function answers the operand and the carry it was given. -/
theorem rotateFunction_zero (op : RotOp) (n : OpSize) (d : BitVec n.bits) (c : Bool) :
    (rotateFunction op n d c 0).res = d ∧ (rotateFunction op n d c 0).cf = c := by
  have ht := rotateAmount_zero op n
  cases op with
  | rol => exact ⟨by simp only [rotateFunction, rol, ht, rolLoop], rfl⟩
  | ror => exact ⟨by simp only [rotateFunction, ror, ht, rorLoop], rfl⟩
  | rcl => simp only [rotateFunction, rcl, ht, rclLoop, and_self]
  | rcr => simp only [rotateFunction, rcr, ht, rcrLoop, and_self]

section
variable {v : Rotate} {p : Place} {s : State}

theorem resultAt_of_count_zero (h : maskedCountOf v s = 0) :
    (resultAt v p s).res = readPlace s v.row.size p ∧ (resultAt v p s).cf = s.flags.cf := by
  rw [resultAt, h]
  exact rotateFunction_zero ..

theorem resultAt_rcl {x : BitVec (1 + v.row.size.bits)} (hop : v.op = .rcl)
    (hx : x = (BitVec.ofBool s.flags.cf ++ readPlace s v.row.size p).rotateLeft
      (rotateAmount .rcl v.row.size (maskedCountOf v s))) :
    (resultAt v p s).Agrees (maskedCountOf v s) (x.setWidth v.row.size.bits) x.msb
      (x.getLsbD (v.row.size.bits - 1) ^^ x.msb) := by
  rw [resultAt, hop]
  exact rcl_agrees hx

theorem resultAt_rcr {x : BitVec (1 + v.row.size.bits)} (hop : v.op = .rcr)
    (hx : x = (BitVec.ofBool s.flags.cf ++ readPlace s v.row.size p).rotateRight
      (rotateAmount .rcr v.row.size (maskedCountOf v s))) :
    (resultAt v p s).Agrees (maskedCountOf v s) (x.setWidth v.row.size.bits) x.msb
      (x.getLsbD (v.row.size.bits - 1) ^^ x.getLsbD (v.row.size.bits - 2)) := by
  rw [resultAt, hop]
  exact rcr_agrees hx

theorem resultAt_rol {x : BitVec v.row.size.bits} (hop : v.op = .rol)
    (hx : x = (readPlace s v.row.size p).rotateLeft (rotateAmount .rol v.row.size (maskedCountOf v s))) :
    (resultAt v p s).Agrees (maskedCountOf v s) x (if maskedCountOf v s = 0 then s.flags.cf else x.getLsbD 0)
      (x.msb ^^ x.getLsbD 0) := by
  rw [resultAt, hop]
  exact rol_agrees hx

theorem resultAt_ror {x : BitVec v.row.size.bits} (hop : v.op = .ror)
    (hx : x = (readPlace s v.row.size p).rotateRight (rotateAmount .ror v.row.size (maskedCountOf v s))) :
    (resultAt v p s).Agrees (maskedCountOf v s) x (if maskedCountOf v s = 0 then s.flags.cf else x.msb)
      (x.msb ^^ x.getLsbD (v.row.size.bits - 2)) := by
  rw [resultAt, hop]
  exact ror_agrees hx

/-! ### The flags after a rotate (40_rotate_common.md R166 to R170) -/

theorem finish_flags_of_count_zero (h : maskedCountOf v s = 0) : (finish v p s).flags = s.flags := by
  rw [finish_flags, rotateFlags, if_pos h]

theorem finish_of_of_count_one (h : maskedCountOf v s = 1) :
    (finish v p s).flags.of = (resultAt v p s).of := by
  rw [finish_flags, rotateFlags, if_neg (by omega), if_pos h]

theorem finish_of_of_count_gt (h : 1 < maskedCountOf v s) :
    (finish v p s).flags.of = Config.drawOf s.drawIndex := by
  rw [finish_flags, rotateFlags, if_neg (by omega), if_neg (by omega)]

/-- CF is the rotate function's whatever the count: at 0, where it is not written, both are the old CF. -/
theorem finish_cf : (finish v p s).flags.cf = (resultAt v p s).cf := by
  by_cases h : maskedCountOf v s = 0
  · rw [finish_flags_of_count_zero h, (resultAt_of_count_zero h).2]
  · rw [finish_flags, rotateFlags, if_neg h]
    split <;> rfl

/-- Only CF and OF may differ. -/
theorem finish_flags_update : ∃ cf ov, (finish v p s).flags = { s.flags with cf := cf, of := ov } := by
  rw [finish_flags, rotateFlags]
  split
  · exact ⟨s.flags.cf, s.flags.of, rfl⟩
  · split <;> exact ⟨_, _, rfl⟩

end

/-- CF and OF are bits 0 and 11 of RFLAGS (10_state.md R27). -/
theorem getLsbD_rflagsWord_update (f : Flags) (cf ov : Bool) {k : Nat} (h0 : k ≠ 0) (h11 : k ≠ 11) :
    (rflagsWord { f with cf := cf, of := ov }).getLsbD k = (rflagsWord f).getLsbD k := by
  have hbits : flagBits { f with cf := cf, of := ov } = ((flagBits f).set 0 cf).set 11 ov := rfl
  rw [getLsbD_rflagsWord, getLsbD_rflagsWord, hbits, List.getElem?_set_ne h11.symm, List.getElem?_set_ne h0.symm]

/-! ### What a completed rotate leaves (40_rotate_common.md R160, R165 to R171) -/

/-- Only a byte row without REX names a high byte register (10_state.md R24). -/
theorem row_size_of_registerPlace_high {w : Row} {rm : BitVec 3} {r : BitVec 4}
    (h : registerPlace w rm = .high r) : w.size = .b8 := by
  cases w with
  | rm8 => rfl
  | _ => cases h

/-- A rotate of a register leaves its result there. -/
theorem readPlace_finish_register (v : Rotate) (rm : BitVec 3) (s : State) :
    readPlace (finish v (registerPlace v.row rm) s) v.row.size (registerPlace v.row rm)
      = (resultAt v (registerPlace v.row rm) s).res := by
  obtain ⟨hlow, hhigh, -⟩ :=
    readPlace_writePlace s v.row.size (resultAt v (registerPlace v.row rm) s).res
  obtain ⟨r, h | h⟩ := registerPlace_cases v.row rm
  · rw [h] at hlow ⊢
    exact hlow r
  · have hsize := row_size_of_registerPlace_high h
    rw [h] at hhigh ⊢
    exact hhigh r hsize

/-- A rotate of memory leaves the bytes of its result there, in different bytes. -/
theorem readAll_finish_mem {v : Rotate} {s : State} {as : List Word64} (h : memoryOperand v s = .ok as)
    (hd : as.Nodup) :
    Memory.readAll (finish v (.mem as) s).mem as = bytesOf v.row.size (resultAt v (.mem as) s).res := by
  obtain ⟨-, -, hmem⟩ := readPlace_writePlace s v.row.size (resultAt v (.mem as) s).res
  exact hmem as hd (operandBytes_length h)

theorem read_finish_mem_other {v : Rotate} {s : State} {as : List Word64} {a : Word64} (h : a ∉ as) :
    Memory.read (finish v (.mem as) s).mem a = Memory.read s.mem a := by
  rw [finish_mem, writePlace_mem_mem, read_writeAll_other _ _ _ h]

section
variable {i : Instr} {s : State}

/-- An instruction without LOCK completes at its destination. -/
theorem exec_destination {p : Place} (hl : Legacy.lock ∉ (view i).pre) (hp : destination (view i) s = .ok p) :
    exec i s = .next (finish (view i) p s) := by
  rw [exec_eq, rotate_finish hl hp]

/-- A memory form without LOCK completes at the bytes of its operand. -/
theorem exec_memory {as : List Word64} (hm : isMemory i) (hl : Legacy.lock ∉ (view i).pre)
    (h : memoryOperand (view i) s = .ok as) : exec i s = .next (finish (view i) (.mem as) s) := by
  refine exec_destination hl ?_
  rw [destination_mem hm, h]

variable {res : BitVec (view i).row.size.bits} {cf ov : Bool}

/-- A rotate of a register whose function answers `res`, `cf` and `ov`. -/
theorem exec_register_agrees {rm : BitVec 3} {p : Place} (hd : (view i).dst = .reg rm)
    (hl : Legacy.lock ∉ (view i).pre) (hp : p = registerPlace (view i).row rm)
    (h : (resultAt (view i) p s).Agrees (maskedCountOf (view i) s) res cf ov) :
    ∃ t, exec i s = .next t ∧ readPlace t (view i).row.size p = res
      ∧ t.flags.cf = cf ∧ (maskedCountOf (view i) s = 0 → t.flags = s.flags)
      ∧ (maskedCountOf (view i) s = 1 → t.flags.of = ov)
      ∧ (1 < maskedCountOf (view i) s → t.flags.of = Config.drawOf s.drawIndex)
      ∧ t.rip = s.ripNext (encode i).length := by
  subst hp
  exact ⟨_, exec_register hd hl, (readPlace_finish_register _ rm s).trans h.res_eq, finish_cf.trans h.cf_eq,
    finish_flags_of_count_zero, fun hm => (finish_of_of_count_one hm).trans (h.of_eq hm), finish_of_of_count_gt, rfl⟩

/-- A rotate of memory whose function answers `res`, `cf` and `ov`. -/
theorem exec_memory_agrees {as : List Word64} (hm : isMemory i) (hl : Legacy.lock ∉ (view i).pre)
    (has : memoryOperand (view i) s = .ok as)
    (h : (resultAt (view i) (.mem as) s).Agrees (maskedCountOf (view i) s) res cf ov) :
    ∃ t, exec i s = .next t ∧ (as.Nodup → Memory.readAll t.mem as = bytesOf (view i).row.size res)
      ∧ t.flags.cf = cf ∧ (maskedCountOf (view i) s = 0 → t.flags = s.flags)
      ∧ (maskedCountOf (view i) s = 1 → t.flags.of = ov)
      ∧ (1 < maskedCountOf (view i) s → t.flags.of = Config.drawOf s.drawIndex)
      ∧ t.rip = s.ripNext (encode i).length
      ∧ (∀ a, a ∉ as → Memory.read t.mem a = Memory.read s.mem a) ∧ t.regs = s.regs ∧ SameControl s t :=
  ⟨_, exec_memory hm hl has, fun hd => (readAll_finish_mem has hd).trans (congrArg _ h.res_eq),
    finish_cf.trans h.cf_eq, finish_flags_of_count_zero,
    fun hm => (finish_of_of_count_one hm).trans (h.of_eq hm), finish_of_of_count_gt, rfl,
    fun _ ha => read_finish_mem_other ha, rfl, sameControl_finish _ _ s⟩

end

/-- A rotate completes or takes an exception (40_rotate_common.md R172). -/
theorem rotate_ne_refused (v : Rotate) (s : State) (r : Refusal) : rotate v s ≠ .refused r := by
  unfold rotate
  split
  · exact raise_ne_refused _ _ _
  · split
    · exact raise_ne_refused _ _ _
    · exact nofun

/-! ## The obligations about rotates -/

/-- Settles O18: the loops are rotations of the operand, or of carry and operand, whose laws these are. -/
theorem rotationLaws : Obligations.RotationLaws := by
  intro n d c t
  have hn := opSize_bits_pos n
  have hrcl := carryWord_rclLoop hn t d c
  have hrcr := carryWord_rcrLoop hn t d c
  simp only [rolLoop_eq_rotateLeft, rorLoop_eq_rotateRight]
  refine ⟨rotateRight_rotateLeft d t, carryWord_inj.1 ?_, fun _ ht => ?_, cpop_rotateLeft d t,
    cpop_rotateRight d t, ?_, ?_⟩
  · rw [carryWord_rcrLoop hn, Prod.mk.eta, hrcl, rotateRight_rotateLeft]
  · refine (rotateRight_eq_iff.2 ?_).symm
    rw [rotateLeft_rotateLeft, Nat.add_sub_cancel' ht.le, rotateLeft_of_dvd d (Nat.dvd_refl _)]
  · exact (congrArg BitVec.cpop hrcl).trans (cpop_rotateLeft _ t)
  · exact (congrArg BitVec.cpop hrcr).trans (cpop_rotateRight _ t)

/-- Settles O19: carry and operand rotated by the amount are what `rcl` answers. -/
theorem rclRegister : Obligations.RclRegister := by
  rintro i s rm p _ x hop hd hl hp rfl hx
  exact exec_register_agrees hd hl hp (resultAt_rcl hop hx)

/-- Settles O20: carry and operand rotated by the amount are what `rcr` answers. -/
theorem rcrRegister : Obligations.RcrRegister := by
  rintro i s rm p _ x hop hd hl hp rfl hx
  exact exec_register_agrees hd hl hp (resultAt_rcr hop hx)

/-- Settles O21: the operand rotated by the amount is what `rol` answers, CF its bottom bit. -/
theorem rolRegister : Obligations.RolRegister := by
  rintro i s rm p _ x hop hd hl hp rfl hx
  exact exec_register_agrees hd hl hp (resultAt_rol hop hx)

/-- Settles O22: the operand rotated by the amount is what `ror` answers, CF its top bit. -/
theorem rorRegister : Obligations.RorRegister := by
  rintro i s rm p _ x hop hd hl hp rfl hx
  exact exec_register_agrees hd hl hp (resultAt_ror hop hx)

/-- Settles O28: as O19, at the bytes of the operand. -/
theorem rclMemory : Obligations.RclMemory := by
  rintro i s as _ x hop hm hl has rfl hx
  exact exec_memory_agrees hm hl has (resultAt_rcl hop hx)

/-- Settles O29: as O20, at the bytes of the operand. -/
theorem rcrMemory : Obligations.RcrMemory := by
  rintro i s as _ x hop hm hl has rfl hx
  exact exec_memory_agrees hm hl has (resultAt_rcr hop hx)

/-- Settles O30: as O21, at the bytes of the operand. -/
theorem rolMemory : Obligations.RolMemory := by
  rintro i s as _ x hop hm hl has rfl hx
  exact exec_memory_agrees hm hl has (resultAt_rol hop hx)

/-- Settles O31: as O22, at the bytes of the operand. -/
theorem rorMemory : Obligations.RorMemory := by
  rintro i s as _ x hop hm hl has rfl hx
  exact exec_memory_agrees hm hl has (resultAt_ror hop hx)

/-- Settles O12: each mask is one less than a power of 2. -/
theorem maskedCountModulo : Obligations.MaskedCount := by
  intro i s
  rw [maskedCountOf, maskedCount_eq_mod]
  cases (view i).count <;> rfl

/-- Settles O13: the amount is the remainder by the period. -/
theorem zeroAmounts : Obligations.ZeroAmounts := by
  intro op n m hm
  rw [rotateAmount_eq_mod hm]
  refine ⟨?_, mod_rotatePeriod_of_wide hm, mod_rotatePeriod_eq_zero hm⟩
  unfold rotatePeriod
  split <;> rfl

/-- Settles O26: the result is computed from the state before, whose CL is the count; then the rule's own
example is run. -/
theorem countReadFirst : Obligations.CountReadFirst := by
  refine ⟨fun i s rm p hc hd hp _ hl => ?_, fun s hcl => ?_⟩
  · subst hp
    refine ⟨_, exec_register hd hl, ?_⟩
    rw [readPlace_finish_register, resultAt, maskedCountModulo, hc]
  · have hresult : resultAt (view (.rolRm8Cl [] (.reg 1))) (.low 1) s
        = rol .b8 s.cl s.flags.cf (maskedCount .b8 s.cl) := rfl
    rw [hcl] at hresult
    exact ⟨_, exec_register rfl List.not_mem_nil,
      (readPlace_finish_register _ 1 s).trans (congrArg Rotated.res hresult),
      finish_cf.trans (congrArg Rotated.cf hresult)⟩

/-- Settles O39: the flags after the rotate are those before it, so their words are equal. -/
theorem zeroCountFlags : Obligations.ZeroCountFlags :=
  fun _ _ _ hl hp h0 => ⟨_, exec_destination hl hp, congrArg rflagsWord (finish_flags_of_count_zero h0)⟩

/-- Settles O40: the flags after a rotate are the old ones with CF and OF replaced. -/
theorem otherFlagsKept : Obligations.OtherFlagsKept := by
  intro i s p hl hp
  obtain ⟨cf, ov, hflags⟩ := finish_flags_update (v := view i) (p := p) (s := s)
  refine ⟨_, exec_destination hl hp, by rw [hflags], by rw [hflags], by rw [hflags], by rw [hflags],
    fun k h0 h11 => by rw [hflags, getLsbD_rflagsWord_update _ _ _ h0 h11], fun hm => ?_,
    fun hm => ⟨finish_cf, finish_of_of_count_one hm⟩, fun hm => ⟨finish_cf, finish_of_of_count_gt hm⟩⟩
  rw [finish_flags_of_count_zero hm]
  exact ⟨rfl, rfl, (resultAt_of_count_zero hm).1⟩

/-- Settles O41: RIP is `ripNext`, reduced by the mode's width. -/
theorem pcNext : Obligations.PcNext := by
  intro i s p hl hp
  have hsum : (s.rip + BitVec.ofNat 64 (encode i).length).toNat = (s.rip.toNat + (encode i).length) % 2 ^ 64 := by
    rw [BitVec.toNat_add, BitVec.toNat_ofNat, Nat.add_mod_mod]
  refine ⟨_, exec_destination hl hp, fun hm => ?_, fun hm => ?_⟩
  · exact (congrArg BitVec.toNat (narrow_long64 hm _)).trans hsum
  · refine (toNat_narrow hm _).trans ?_
    rw [show lengthOf (view i) = (encode i).length from rfl, hsum]
    exact Nat.mod_mod_of_dvd _ (by decide)

/-- Settles O49: every meaning is a rotate. -/
theorem neverRefused : Obligations.NeverRefused := by
  intro i s r
  rw [exec_eq]
  exact rotate_ne_refused (view i) s r

/-- Settles O7: with TF 0 only the outcome of the decoder decides. -/
theorem stepRunsDecoded : Obligations.StepRunsDecoded := by
  intro s i rest htf hdec
  rw [step, htf, hdec]
  rfl

/-- Settles O8: at most 13 bytes, so they all stand in the window, and the decoder reads them back. -/
theorem stepRunsEncoded : Obligations.StepRunsEncoded := by
  intro s i htf hwf hbytes
  obtain ⟨-, hlen, -⟩ := lengthBounds s.mode s.csD i hwf
  have hwindow : s.fetchWindow.1 = encode i ++ (s.fetchFrom (0 + (encode i).length) (15 - (encode i).length)).1 := by
    rw [← fetchFrom_append s 0 (encode i) _ (by simpa only [Nat.zero_add] using hbytes),
      Nat.add_sub_cancel' (by omega)]
    rfl
  exact stepRunsDecoded s i _ htf (hwindow ▸ decodeEncode _ _ _ _ hwf)

end Sys2Proof.Machine

/-! ## Proofs about RCL (spec/41_rcl.md) -/

namespace Sys2Proof.Machine

/-- One turn to the left brings the operand's top two bits to the top of carry and operand (41_rcl.md R200). -/
theorem carryWord_rotateLeft_one_top {n : Nat} (hn : 2 ≤ n) (d : BitVec n) (c : Bool) :
    ((carryWord (d, c)).rotateLeft 1).msb = d.msb
      ∧ ((carryWord (d, c)).rotateLeft 1).getLsbD (n - 1) = d.getLsbD (n - 2) := by
  refine ⟨?_, ?_⟩
  · rw [← rclTurn_eq_rotateLeft (by omega), msb_carryWord]
  · rw [getLsbD_rotateLeft_one _ (by omega), if_neg (by omega), Nat.sub_sub, getLsbD_carryWord, if_pos (by omega)]

/-- Settles O14: result and CF are what `rcl` answers; at a masked count of 1 the top two bits, which give OF, are
those of the operand. -/
theorem rclClosedForm : Obligations.RclClosedForm := by
  intro n d c m x hx
  obtain ⟨hres, hcf, hof⟩ := rcl_agrees (d := d) (c := c) hx
  refine ⟨hres, hcf, fun hm => (hof hm).trans ?_⟩
  rw [hm, rotateAmount_one] at hx
  obtain ⟨htop, hnext⟩ := carryWord_rotateLeft_one_top (opSize_bits_ge_two n) d c
  exact hx ▸ congrArg₂ xor hnext htop

end Sys2Proof.Machine

/-! ## Proofs about RCR (spec/42_rcr.md) -/

namespace Sys2Proof.Machine

/-- Settles O15: carry and operand rotated by the amount are what `rcr` answers, OF at a masked count of 1
included; `rcr_agrees` proves it from one turn of the loop being one rotation of `carryWord`. -/
theorem rcrClosedForm : Obligations.RcrClosedForm := by
  intro n d c m x hx
  obtain ⟨hres, hcf, hof⟩ := rcr_agrees (d := d) (c := c) hx
  exact ⟨hres, hcf, hof⟩

end Sys2Proof.Machine

/-! ## Proofs about ROL (spec/43_rol.md) -/

namespace Sys2Proof.Machine

/-- The bit that went round (43_rol.md R240): the bottom of the turned word is the bit `t` places below its top end,
or the bottom bit where the turns make whole rounds. -/
theorem getLsbD_rotateLeft_zero {w : Nat} (x : BitVec w) (t : Nat) :
    (x.rotateLeft t).getLsbD 0 = x.getLsbD ((w - t % w) % w) := by
  rcases Nat.eq_zero_or_pos w with rfl | hw
  · simp
  have hlt := Nat.mod_lt t hw
  rw [BitVec.getLsbD_rotateLeft]
  rcases Nat.eq_zero_or_pos (t % w) with h0 | hpos
  · simp [h0, hw]
  · simp [hpos, Nat.mod_eq_of_lt (show w - t % w < w by omega)]

/-- One turn to the left brings the second bit from the top to the top. -/
theorem msb_rotateLeft_one {w : Nat} (hw : 2 ≤ w) (x : BitVec w) : (x.rotateLeft 1).msb = x.getLsbD (w - 2) := by
  rw [BitVec.msb_eq_getLsbD_last, getLsbD_rotateLeft_one x (by omega), if_neg (by omega), Nat.sub_sub]

/-- Settles O16: result and CF are what `rol` answers, CF being the bit that went round; at a masked count of 1 the
result's top and bottom bits, which give OF, are the operand's top two. -/
theorem rolClosedForm : Obligations.RolClosedForm := by
  intro n d c m t ht
  have hn := opSize_bits_ge_two n
  have hmod : t % n.bits = t := by rw [ht]; exact Nat.mod_mod m n.bits
  obtain ⟨hres, hcf, hof⟩ := rol_agrees (d := d) (c := c) (m := m) (congrArg d.rotateLeft ht)
  refine ⟨hres, ?_, fun hm => (hof hm).trans ?_⟩
  · rw [hcf, getLsbD_rotateLeft_zero, hmod]
  · rw [ht, hm, rotateAmount_one, msb_rotateLeft_one hn, getLsbD_rotateLeft_one d (by omega), if_pos rfl]

end Sys2Proof.Machine

/-! ## Proofs about ROR (spec/44_ror.md) -/

namespace Sys2Proof.Machine

/-- The bit that went round (44_ror.md R260): the top of the turned word is the bit that `t` turns took from the
bottom last, or the top bit where the turns make whole rounds. -/
theorem msb_rotateRight_eq_getLsbD {w : Nat} (x : BitVec w) (t : Nat) :
    (x.rotateRight t).msb = x.getLsbD ((t % w + w - 1) % w) := by
  rcases Nat.eq_zero_or_pos w with rfl | hw
  · simp
  have hlt := Nat.mod_lt t hw
  rw [BitVec.msb_rotateRight, BitVec.getMsbD_eq_getLsbD, decide_eq_true (Nat.mod_lt _ hw), Bool.true_and]
  congr 1
  generalize t % w = r at hlt
  rcases Nat.eq_zero_or_pos r with rfl | hpos
  · simp [Nat.mod_eq_of_lt (show w - 1 < w by omega)]
  · rw [Nat.mod_eq_of_lt (show w - r < w by omega), show r + w - 1 = r - 1 + w by omega, Nat.add_mod_right,
      Nat.mod_eq_of_lt (show r - 1 < w by omega)]
    omega

/-- One turn to the right brings the bottom bit to the top and the top bit to the second place. -/
theorem rotateRight_one_top {w : Nat} (hw : 2 ≤ w) (x : BitVec w) :
    (x.rotateRight 1).msb = x.getLsbD 0 ∧ (x.rotateRight 1).getLsbD (w - 2) = x.msb := by
  simp only [BitVec.msb_eq_getLsbD_last]
  refine ⟨?_, ?_⟩
  · rw [getLsbD_rotateRight_one x (by omega), if_neg (by omega)]
  · rw [getLsbD_rotateRight_one x (by omega), if_pos (by omega), show w - 2 + 1 = w - 1 by omega]

/-- Settles O17: result and CF are what `ror` answers, CF being the bit that went round; at a masked count of 1 the
result's top two bits, which give OF, are the operand's bottom and top. -/
theorem rorClosedForm : Obligations.RorClosedForm := by
  intro n d c m t ht
  have hmod : t % n.bits = t := by rw [ht]; exact Nat.mod_mod m n.bits
  obtain ⟨hres, hcf, hof⟩ := ror_agrees (d := d) (c := c) (m := m) (congrArg d.rotateRight ht)
  refine ⟨hres, ?_, fun hm => (hof hm).trans ?_⟩
  · rw [hcf, msb_rotateRight_eq_getLsbD, hmod]
  · obtain ⟨htop, hnext⟩ := rotateRight_one_top (opSize_bits_ge_two n) d
    rw [ht, hm, rotateAmount_one, htop, hnext]

end Sys2Proof.Machine

/-! ## Proofs about exceptions (spec/60_exceptions.md) -/

namespace Sys2Proof.Machine

section
variable {i : Instr} {s : State} {e : Exn} {f : Fault}

/-- Only a memory form has no destination: a check of its operand failed. -/
theorem destination_error {v : Rotate} (h : destination v s = .error e) :
    (∀ rm, v.dst ≠ .reg rm) ∧ memoryOperand v s = .error e := by
  have hm : ∀ rm, v.dst ≠ .reg rm := by
    intro rm hd
    rw [destination_reg hd] at h
    cases h
  rw [destination_mem hm] at h
  split at h
  · cases h
  · next ho => cases h; exact ⟨hm, ho⟩

/-- A rotate that faults takes `#UD` for LOCK, or else the exception of its memory operand: the one
inversion of a fault (60_exceptions.md R301, R310). -/
theorem exec_fault (h : exec i s = .fault f) :
    (Legacy.lock ∈ (view i).pre ∧ raise .ud s = .fault f)
      ∨ Legacy.lock ∉ (view i).pre ∧ isMemory i
        ∧ ∃ e, memoryOperand (view i) s = .error e ∧ raise e s = .fault f := by
  rw [exec_eq] at h
  by_cases hl : Legacy.lock ∈ (view i).pre
  · exact .inl ⟨hl, rotate_lock hl ▸ h⟩
  · cases hd : destination (view i) s with
    | ok p => rw [rotate_finish hl hd] at h; cases h
    | error e =>
      obtain ⟨hm, ho⟩ := destination_error hd
      exact .inr ⟨hl, hm, e, ho, rotate_error hl hd ▸ h⟩

/-- Real mode has no page faults, paging being off there (20_memory.md R67). -/
theorem pageFaults_real (h : s.mode = .real) (acc : Access) (las : List Word64) : s.pageFaults acc las = [] :=
  pageFaults_eq_nil fun la _ => ⟨la, pagingOff s la acc (.inl h)⟩

/-- The exceptions of a memory operand: `#GP` and `#SS` in every mode, `#AC` where the operand is unaligned,
`#PF` outside real mode (60_exceptions.md R302 to R304, R316). -/
theorem memoryOperand_error (h : memoryOperand (view i) s = .error e) :
    e = .gp ∨ e = .ss ∨ (e = .ac ∧ operandMisaligned i s)
      ∨ (s.mode ≠ .real ∧ ∃ code la, e = .pf code la) := by
  rcases operandBytes_error h with hseg | ⟨-, hacc⟩
  · exact (segmentExn_cases hseg).imp_right fun ⟨hss, _⟩ => .inl hss
  · rcases accessExn_cases hacc with ⟨hac, hmis⟩ | ⟨g, hlow, hpf⟩
    · exact .inr (.inr (.inl ⟨hac, misaligned_iff.1 hmis⟩))
    · refine .inr (.inr (.inr ⟨fun hreal => ?_, g.2, g.1, hpf⟩))
      rw [pageFaults_real hreal] at hlow
      cases hlow

/-- Every fault of a rotate: `#UD` with LOCK; without it, of a memory form, the exceptions of the operand. -/
theorem exec_fault_cases (h : exec i s = .fault f) :
    (Legacy.lock ∈ (view i).pre ∧ f = .ud s.ip)
      ∨ Legacy.lock ∉ (view i).pre ∧ isMemory i
        ∧ (f = .gp s.errorCode s.ip ∨ f = .ss s.errorCode s.ip ∨ (f = .ac s.ip ∧ operandMisaligned i s)
          ∨ (s.mode ≠ .real ∧ ∃ code la, f = .pf code la s.ip)) := by
  rcases exec_fault h with ⟨hl, hr⟩ | ⟨hl, hm, e, ho, hr⟩
  · cases hr; exact .inl ⟨hl, rfl⟩
  · refine .inr ⟨hl, hm, ?_⟩
    rcases memoryOperand_error ho with rfl | rfl | ⟨rfl, hmis⟩ | ⟨hmode, code, la, rfl⟩ <;> cases hr
    · exact .inl rfl
    · exact .inr (.inl rfl)
    · exact .inr (.inr (.inl ⟨rfl, hmis⟩))
    · exact .inr (.inr (.inr ⟨hmode, code, la, rfl⟩))

/-- Of the faults of a rotate only `#AC` is one of alignment: its operand is unaligned (60_exceptions.md R316). -/
theorem exec_ac {rip : Word64} (h : exec i s = .fault (.ac rip)) : operandMisaligned i s := by
  obtain ⟨-, -, -, hmis⟩ : Legacy.lock ∉ (view i).pre ∧ isMemory i ∧ rip = s.ip ∧ operandMisaligned i s := by
    simpa using exec_fault_cases h
  exact hmis

end

/-! ## The obligations about exceptions -/

/-- Settles O42: LOCK is tested before the destination; bytes that are no rotate never reach `exec`. -/
theorem lockFaults : Obligations.LockFaults := by
  refine ⟨fun i s hl => ⟨(exec_eq i s).trans (rotate_lock hl), rfl⟩, fun s why htf hdec => ?_⟩
  rw [step, htf, hdec]
  rfl

/-- Settles O47: `#AC` comes of an unaligned operand, which a single byte never is. -/
theorem byteNeverMisaligned : Obligations.ByteNeverMisaligned := by
  intro i s rip hsize h
  obtain ⟨-, -, -, -, hbytes, -⟩ := exec_ac h
  rw [hsize] at hbytes
  exact absurd hbytes (by decide)

/-- Settles O48: the record of each fault of `exec_fault_cases`, whose error code the mode decides. -/
theorem faultKinds : Obligations.FaultKinds := by
  intro i s f h
  rcases exec_fault_cases h with ⟨hl, rfl⟩ | ⟨hl, hm, rfl | rfl | ⟨rfl, hreal, -⟩ | ⟨hreal, code, la, rfl⟩⟩
  · simp [faultRecord, hl]
  · simp +contextual [faultRecord, hl, hm _, errorCode_real, errorCode_of_ne_real]
  · simp +contextual [faultRecord, hl, hm _, errorCode_real, errorCode_of_ne_real]
  · simp [faultRecord, hl, hm _, hreal]
  · simp [faultRecord, hl, hm _, hreal]

/-- Settles O11: TF is tested before the fetch. -/
theorem trapRefused : Obligations.TrapRefused :=
  fun _ htf => if_pos htf

end Sys2Proof.Machine
